-- ==== Sys2Proof/Word.lean ====
section
/-! DEFINITION. The word types of CORE: the data, instruction and address word (00 R6, R7) and the three-bit
register number (10 R11).  `s32(v)` of 00 R7 is `BitVec.toInt`, `u32(v)` is `BitVec.toNat`; `+` and `-` are
modulo 2^32 (00 R7, 42 R122). -/

namespace Sys2Proof

/-- A 32-bit word: a register, a memory word, an instruction, a pipeline-register field, the pc (00 R7). -/
abbrev Word := BitVec 32

/-- A register number, 0 to 7, as the 3-bit fields of an instruction hold it (10 R11). -/
abbrev Reg := BitVec 3

end Sys2Proof
end

