-- ==== Sys2Proof/Config.lean ====
section
/-! DEFINITION. The implementation parameters of CORE (00 R6).  The spec leaves each open and gives it a default; the
host fixes them for a run (70 R185).  So that the model covers every choice, they are plain data carried by the
machine state (log entry 2), and no cycle changes them.  The spec fixes every don't-care value itself (92 D11, D12),
so there is no free value. -/

namespace Sys2Proof

/-- `DMEM_INIT` (00 R6, 92 D2): what data memory holds after a load. -/
inductive DmemInit where
  | image | zero
  deriving DecidableEq, Repr

/-- What an out-of-range opcode or the unimplemented jalr does (`ILLEGAL_OP_MODE`, 92 D5; `JALR_MODE`, 92 D6). -/
inductive OpMode where
  | noop | faultAtWriteback
  deriving DecidableEq, Repr

/-- The parameters of 00 R6 that may differ from run to run. -/
structure Params where
  /-- `MEM_WORDS`: words in each of the two memories. -/
  memWords : Nat
  /-- `IMAGE_LEN`: words in the loaded program image. -/
  imageLen : Nat
  /-- `DMEM_INIT`. -/
  dmemInit : DmemInit
  /-- `ILLEGAL_OP_MODE`. -/
  illegalOpMode : OpMode
  /-- `JALR_MODE`. -/
  jalrMode : OpMode
  deriving DecidableEq, Repr

/-- The values 00 R6 gives this hardware, with no image loaded. -/
def defaultParams : Params where
  memWords := 65536
  imageLen := 0
  dmemInit := .image
  illegalOpMode := .noop
  jalrMode := .noop

/-- 92 D1: "Any value of at least `IMAGE_LEN` and at most 2^31 works with every rule". -/
abbrev Params.valid (p : Params) : Prop := p.imageLen ≤ p.memWords ∧ p.memWords ≤ 2 ^ 31

end Sys2Proof
end

