-- ==== Sys2Proof/Syntax.lean ====
section
/-! DEFINITION. The instructions of CORE, one constructor per row of spec/opcode_table.json (30 R50, R53), and the
opcode names with ILLEGAL beside them. -/

namespace Sys2Proof

/-- An instruction with every bit of its word below the opcode kept in an operand (30 R50), so that nothing of an
encoding is lost; the unused bits of jalr, halt and noop are not reserved (30 R57). -/
inductive Instr where
  /-- `add regA regB destReg` (42 R120); destReg is the whole 16-bit field2 (30 R55). -/
  | add (regA regB : Reg) (destReg : BitVec 16)
  /-- `nor regA regB destReg` (42 R121). -/
  | nor (regA regB : Reg) (destReg : BitVec 16)
  /-- `lw regA regB offset` (43 R130): regA the base, regB the destination. -/
  | lw (regA regB : Reg) (offset : BitVec 16)
  /-- `sw regA regB offset` (43 R131): regA the base, regB the register stored. -/
  | sw (regA regB : Reg) (offset : BitVec 16)
  /-- `beq regA regB offset` (44 R140). -/
  | beq (regA regB : Reg) (offset : BitVec 16)
  /-- `jalr regA regB` (44 R141): decodable, unimplemented. -/
  | jalr (regA regB : Reg) (unused : BitVec 16)
  /-- `halt` (45 R150). -/
  | halt (unused : BitVec 22)
  /-- `noop` (45 R151). -/
  | noop (unused : BitVec 22)
  deriving DecidableEq, Repr

/-- What an opcode selector names (30 R53): one of the eight instructions, or ILLEGAL. -/
inductive OpName where
  | add | nor | lw | sw | beq | jalr | halt | noop | illegal
  deriving DecidableEq, Repr

/-- The opcode name of an instruction; never ILLEGAL. -/
def Instr.opName : Instr → OpName
  | .add _ _ _ => .add
  | .nor _ _ _ => .nor
  | .lw _ _ _ => .lw
  | .sw _ _ _ => .sw
  | .beq _ _ _ => .beq
  | .jalr _ _ _ => .jalr
  | .halt _ => .halt
  | .noop _ => .noop

end Sys2Proof
end

