-- ==== Sys2Proof/Decode.lean ====
section
/-! DEFINITION. The decode unit (30 R51 to R54) and, after it, the encoder (30 R60).  Decoding is total; a word whose
opcode selector is outside 0..7 is rejected by name, and what the pipeline does with it is 45 R152. -/

namespace Sys2Proof

/-! ## Field extraction (30 R51, R52) -/

/-- `op(w) = floor(s32(w) / 2^22)` (30 R51): the signed value of bits 31:22. -/
def op (w : Word) : Int := w.toInt / 2 ^ 22

/-- `f0(w) = w[21:19]` (30 R51). -/
def field0 (w : Word) : Reg := w.extractLsb' 19 3

/-- `f1(w) = w[18:16]` (30 R51). -/
def field1 (w : Word) : Reg := w.extractLsb' 16 3

/-- `f2(w) = w[15:0]` (30 R51): the raw 16-bit pattern. -/
def field2 (w : Word) : BitVec 16 := w.extractLsb' 0 16

/-- `sext_16(v)` (00 R7, 30 R52). -/
def sext16 (v : BitVec 16) : Word := v.signExtend 32

/-- `offset(w) = sext_16(f2(w))` (30 R52). -/
def offset (w : Word) : Word := sext16 (field2 w)

/-! ## The opcode map (30 R53) -/

/-- The name an opcode selector has (30 R53). -/
def opNameOf (v : Int) : OpName :=
  if v = 0 then .add
  else if v = 1 then .nor
  else if v = 2 then .lw
  else if v = 3 then .sw
  else if v = 4 then .beq
  else if v = 5 then .jalr
  else if v = 6 then .halt
  else if v = 7 then .noop
  else .illegal

/-- `OPNAME(w)` (30 R53). -/
def opname (w : Word) : OpName := opNameOf (op w)

/-- Why a word is no instruction. -/
inductive DecodeError where
  /-- 30 R54: the opcode selector of this word is outside 0..7. -/
  | illegalOpcode (w : Word)
  deriving DecidableEq, Repr

/-- The instruction a word is (30 R51, R53), or its rejection by name (30 R54). -/
def decode (w : Word) : Except DecodeError Instr :=
  match opname w with
  | .add => .ok (.add (field0 w) (field1 w) (field2 w))
  | .nor => .ok (.nor (field0 w) (field1 w) (field2 w))
  | .lw => .ok (.lw (field0 w) (field1 w) (field2 w))
  | .sw => .ok (.sw (field0 w) (field1 w) (field2 w))
  | .beq => .ok (.beq (field0 w) (field1 w) (field2 w))
  | .jalr => .ok (.jalr (field0 w) (field1 w) (field2 w))
  | .halt => .ok (.halt (w.extractLsb' 0 22))
  | .noop => .ok (.noop (w.extractLsb' 0 22))
  | .illegal => .error (.illegalOpcode w)

/-- The instruction the decoder reads from the low `nbits` bits of `w` (every instruction is one word, 30 R59; the
bits above `nbits` are zero); none where it refuses. -/
def decodeTableWord (nbits w : Nat) : Option Instr :=
  if nbits ≤ 32 then
    match decode (BitVec.ofNat 32 (w % 2 ^ nbits)) with
    | .ok i => some i
    | .error _ => none
  else none

/-! ## The encoder (30 R60) -/

/-- `enc(op, a, b, c)` (30 R60), the opcode given as bits 31:22. -/
def enc (o : BitVec 10) (a b : Reg) (c : BitVec 16) : Word :=
  (o.setWidth 32 <<< 22) ||| (a.setWidth 32 <<< 19) ||| (b.setWidth 32 <<< 16) ||| c.setWidth 32

/-- The word of an instruction (30 R50, R53, R60). -/
def encode : Instr → Word
  | .add a b d => enc 0 a b d
  | .nor a b d => enc 1 a b d
  | .lw a b o => enc 2 a b o
  | .sw a b o => enc 3 a b o
  | .beq a b o => enc 4 a b o
  | .jalr a b u => enc 5 a b u
  | .halt u => enc 6 (u.extractLsb' 19 3) (u.extractLsb' 16 3) (u.extractLsb' 0 16)
  | .noop u => enc 7 (u.extractLsb' 19 3) (u.extractLsb' 16 3) (u.extractLsb' 0 16)

/-- `NOOP_WORD = 0x01C00000` (00 R6, 30 R58): the word reset and every bubble put into a pipeline register. -/
def noopWord : Word := 0x01C00000

/-! ## Every constructor's decoding, on a word written out from 30 R50 (opcode ten bits, f0, f1, f2) -/

theorem decode_word_add : decode 0b0000000000_001_001_0000000000000010 = .ok (.add 1 1 2) := by decide
theorem decode_word_nor : decode 0b0000000001_011_100_0000000000000101 = .ok (.nor 3 4 5) := by decide
theorem decode_word_lw : decode 0b0000000010_000_001_0000000000001010 = .ok (.lw 0 1 10) := by decide
theorem decode_word_sw : decode 0b0000000011_000_100_0000000000001011 = .ok (.sw 0 4 11) := by decide
theorem decode_word_beq : decode 0b0000000100_000_000_1111111111111011 = .ok (.beq 0 0 0xFFFB) := by decide
theorem decode_word_jalr : decode 0b0000000101_001_010_0000000000000000 = .ok (.jalr 1 2 0) := by decide
theorem decode_word_halt : decode 0b0000000110_000_000_0000000000000000 = .ok (.halt 0) := by decide
theorem decode_word_noop : decode 0b0000000111_000_000_0000000000000000 = .ok (.noop 0) := by decide

end Sys2Proof
end

