-- ==== Sys2Proof/Machine/State.lean ====
section
/-! DEFINITION. The machine state of CORE (10 R10), plain data, with its reset value (10 R26), and the reasons a step
can stop (60 R162). -/

namespace Sys2Proof.Machine

/-- A memory (10 R14, R15; 20 R32: "A model stores words, not bytes"): the words that differ from what an unlisted
address holds, as (word address, word) pairs, addresses strictly rising (log entry 3). -/
abbrev Memory := List (Nat × Word)

/-- The general register file, r0 to r7 (10 R11); no register is hard-wired (10 R12). -/
abbrev RegFile := Vector Word 8

/-- IF/ID (10 R16). -/
structure IFID where
  instr : Word
  pcPlus1 : Word
  deriving DecidableEq, Repr

/-- ID/EX (10 R17). -/
structure IDEX where
  instr : Word
  pcPlus1 : Word
  valA : Word
  valB : Word
  offset : Word
  deriving DecidableEq, Repr

/-- EX/MEM (10 R18); `eq` holds 0 or 1 (10 R10). -/
structure EXMEM where
  instr : Word
  branchTarget : Word
  eq : Bool
  aluResult : Word
  valB : Word
  deriving DecidableEq, Repr

/-- MEM/WB (10 R19). -/
structure MEMWB where
  instr : Word
  writeData : Word
  deriving DecidableEq, Repr

/-- WB/END (10 R20). -/
structure WBEND where
  instr : Word
  writeData : Word
  deriving DecidableEq, Repr

/-- The three stages in which an instruction's opcode decides what happens (41 R98, R99, R100).  Fetch and Decode treat
every word alike (41 R94, R96). -/
inductive Stage where
  | execute | memory | writeback
  deriving DecidableEq, Repr

/-- The state of the core (10 R10), with the parameters of the run (00 R6, 70 R185) and one field of the model's own,
`stage`, which tells a meaning the stage it is to perform (log entry 1). -/
structure State where
  /-- The word index of the next fetch (10 R13). -/
  pc : Word
  /-- Instruction memory (10 R14). -/
  imem : Memory
  /-- Data memory (10 R15). -/
  dmem : Memory
  /-- r0 to r7 (10 R11). -/
  reg : RegFile
  ifid : IFID
  idex : IDEX
  exmem : EXMEM
  memwb : MEMWB
  wbend : WBEND
  /-- The cycle counter (10 R22). -/
  cycles : Nat
  /-- The parameters of the run (00 R6; DESIGN CHOICE, log entry 2, safe). -/
  params : Params
  /-- The model's own (DESIGN CHOICE, log entry 1, safe): the stage `exec` performs. -/
  stage : Stage
  deriving DecidableEq, Repr

/-- The model faults of 60 R162.  Each stops the machine with none of the cycle's writes applied and records, beside
its `info`, the cycle counter (60 R161).  The source leaves these cases undefined, so a fault only makes claims
unprovable: safe, each of them. -/
inductive Fault where
  /-- Code 1: the fetch stage, when it reads instruction memory at a pc out of range (41 R95).  Safe. -/
  | fetchAddressFault (pc : Word) (cycle : Nat)
  /-- Code 2: lw or sw in the memory stage, at an address out of range (20 R36).  Safe. -/
  | dataAddressFault (address : Word) (cycle : Nat)
  /-- Code 3: add or nor in writeback, when field2 is above 7 (30 R55, 41 R100).  Safe. -/
  | reservedDestFault (f2 : BitVec 16) (cycle : Nat)
  /-- Code 4: an ILLEGAL word in writeback, only when ILLEGAL_OP_MODE is fault_at_writeback (45 R152).  Safe. -/
  | illegalOpcodeFault (w : Word) (cycle : Nat)
  /-- Code 5: jalr in writeback, only when JALR_MODE is fault_at_writeback (44 R141).  Safe. -/
  | unimplementedFault (w : Word) (cycle : Nat)
  deriving DecidableEq, Repr

/-- Why an instruction has no meaning.  Every row of the opcode table has one, so nothing raises this. -/
inductive Refusal where
  /-- An arm of `exec` that is not modelled yet; no arm raises it.  Safe. -/
  | notModelled (mnemonic : String)
  deriving DecidableEq, Repr

/-- The outcome of a step or of a stage of one instruction. -/
abbrev Outcome := Host.Outcome State Fault Refusal

/-- The state after reset (10 R26, 70 R180) for the empty image (70 R182(g)) and the default parameters (00 R6).  Load.lean has the reset state of
any other image and parameters. -/
def State.reset : State where
  pc := 0
  imem := []
  dmem := []
  reg := Vector.replicate 8 0
  ifid := ⟨noopWord, 0⟩
  idex := ⟨noopWord, 0, 0, 0, 0⟩
  exmem := ⟨noopWord, 0, false, 0, 0⟩
  memwb := ⟨noopWord, 0⟩
  wbend := ⟨noopWord, 0⟩
  cycles := 0
  params := defaultParams
  stage := .execute

end Sys2Proof.Machine
end

