-- ==== Sys2Proof/Machine/Ops.lean ====
section
/-! DEFINITION. The named operations of CORE: reading and writing a memory, a register and each field of the state;
raising a fault, which is all the hardware has in place of an exception (60 R160, R161); and the latching of each
pipeline register. -/

namespace Sys2Proof.Machine

/-! ## Memories (20 R30 to R34) -/

/-- What an unlisted word holds (92 D2, D3): 0. -/
def unlistedWord : Word := 0

/-- `MemRead(a, 1)` and `IMemRead(a)` (00 R7): the whole word at word address `a`. -/
def Memory.read : Memory → Nat → Word
  | [], _ => unlistedWord
  | (b, w) :: rest, a =>
    if a < b then unlistedWord
    else if a = b then w
    else Memory.read rest a

/-- A cell in front of a memory, left out where it holds what an unlisted word holds. -/
def Memory.cons (a : Nat) (v : Word) (m : Memory) : Memory :=
  if v = unlistedWord then m else (a, v) :: m

/-- `MemWrite(a, 1, v)` (00 R7): the whole word is replaced (20 R34). -/
def Memory.write : Memory → Nat → Word → Memory
  | [], a, v => Memory.cons a v []
  | (b, w) :: rest, a, v =>
    if a < b then Memory.cons a v ((b, w) :: rest)
    else if a = b then Memory.cons a v rest
    else (b, w) :: Memory.write rest a v

/-- Every address listed is at least `lo`, addresses rise strictly, and no cell holds what an unlisted word holds. -/
def Memory.wfFrom : Nat → Memory → Bool
  | _, [] => true
  | lo, (a, v) :: rest => decide (lo ≤ a) && decide (v ≠ unlistedWord) && Memory.wfFrom (a + 1) rest

/-- The canonical form of a memory: equal memories are equal lists. -/
def Memory.wf (m : Memory) : Bool := Memory.wfFrom 0 m

/-- Every word listed lies below `MEM_WORDS` (10 R14, R15). -/
def Memory.within (m : Memory) (memWords : Nat) : Bool := m.all fun c => decide (c.1 < memWords)

/-- 20 R31: an address is valid when `0 <= s32(a) < MEM_WORDS`; the pc under the same condition. -/
def addressValid (p : Params) (a : Word) : Bool := decide (0 ≤ a.toInt) && decide (a.toInt < (p.memWords : Int))

/-! ## Registers (10 R11, R12) -/

/-- `x[i]` (00 R7). -/
def RegFile.read (rf : RegFile) (r : Reg) : Word := rf[r.toNat]'r.isLt

/-- `x[i] <- v` (00 R7): any register may be written, r0 too (10 R12). -/
def RegFile.write (rf : RegFile) (r : Reg) (v : Word) : RegFile := rf.set r.toNat v r.isLt

/-! ## Field updates -/

def State.setPc (s : State) (v : Word) : State := { s with pc := v }
def State.setImem (s : State) (v : Memory) : State := { s with imem := v }
def State.setDmem (s : State) (v : Memory) : State := { s with dmem := v }
def State.setReg (s : State) (v : RegFile) : State := { s with reg := v }
def State.setIfid (s : State) (v : IFID) : State := { s with ifid := v }
def State.setIdex (s : State) (v : IDEX) : State := { s with idex := v }
def State.setExmem (s : State) (v : EXMEM) : State := { s with exmem := v }
def State.setMemwb (s : State) (v : MEMWB) : State := { s with memwb := v }
def State.setWbend (s : State) (v : WBEND) : State := { s with wbend := v }
def State.setCycles (s : State) (v : Nat) : State := { s with cycles := v }
def State.setParams (s : State) (v : Params) : State := { s with params := v }
def State.setStage (s : State) (v : Stage) : State := { s with stage := v }

/-! ## Outcomes and faults -/

/-- Go on with the next state, or keep the fault or refusal. -/
def andThen (o : Outcome) (f : State → Outcome) : Outcome :=
  match o with
  | .next s => f s
  | .fault r => .fault r
  | .refused r => .refused r

/-- `raise <Fault>(info)` (00 R7, 60 R161): the cycle ends with none of its writes applied, and the fault records the
cycle counter beside its info. -/
def raise (fault : Nat → Fault) (s : State) : Outcome := .fault (fault s.cycles)

/-! ## Stages -/

/-- The instruction word in the pipeline register the stage reads (41 R97, R99, R100). -/
def stageWord : Stage → State → Word
  | .execute, s => s.idex.instr
  | .memory, s => s.exmem.instr
  | .writeback, s => s.memwb.instr

/-- 41 R110: the core is halted when the word in MEM/WB is a halt. -/
def halted (s : State) : Bool := decide (opname s.memwb.instr = .halt)

/-- "Forced to NOOP" (40 R77) for IF/ID: only `instr` changes. -/
def bubbleIfid (r : IFID) : IFID := { r with instr := noopWord }

/-- "Forced to NOOP" (40 R77) for ID/EX. -/
def bubbleIdex (r : IDEX) : IDEX := { r with instr := noopWord }

/-- "Forced to NOOP" (40 R77) for EX/MEM. -/
def bubbleExmem (r : EXMEM) : EXMEM := { r with instr := noopWord }

/-- The squash of a taken branch (40 R79): the pc is set and the three registers behind the branch are forced to NOOP. -/
def squashYounger (target : Word) (s : State) : State :=
  (((s.setPc target).setIfid (bubbleIfid s.ifid)).setIdex (bubbleIdex s.idex)).setExmem (bubbleExmem s.exmem)

end Sys2Proof.Machine
end

