-- ==== Sys2Proof/Machine/Flags.lean ====
section
/-! DEFINITION. CORE has no flags and no condition codes (10 R23).  The one computed bit is the EX/MEM field `eq`. -/

namespace Sys2Proof.Machine

/-- The equality flag of EX/MEM (41 R97): 1 when the forwarded operands are equal in all 32 bits. -/
def equalityFlag (a b : Word) : Bool := a == b

end Sys2Proof.Machine
end

