-- ==== Sys2Proof/Machine/Operands.lean ====
section
/-! DEFINITION. The operands of an instruction: which register a word produces (40 R73), the forwarded operands A' and
B' (40 R74, R75), and the execute stage's arithmetic on them (41 R98, 42 R122). -/

namespace Sys2Proof.Machine

/-- `isProducer(w)` and `dest(w)` (40 R73): the destination of a producer, all 16 bits of field2 for add and nor
(30 R55); none for any other word. -/
def producerDest (w : Word) : Option (BitVec 16) :=
  match opname w with
  | .add => some (field2 w)
  | .nor => some (field2 w)
  | .lw => some ((field1 w).setWidth 16)
  | .sw => none
  | .beq => none
  | .jalr => none
  | .halt => none
  | .noop => none
  | .illegal => none

/-- The word is a producer of register `r` (40 R73, R74). -/
def produces (w : Word) (r : Reg) : Bool := producerDest w == some (r.setWidth 16)

/-- One check of 40 R74: the producer's value in place of the old one, where the word produces `r`. -/
def substitute (w : Word) (value : Word) (r : Reg) (old : Word) : Word :=
  if produces w r then value else old

/-- 40 R74: farthest first, each nearer check overriding: WB/END, then MEM/WB, then EX/MEM. -/
def forward (s : State) (r : Reg) (v : Word) : Word :=
  substitute s.exmem.instr s.exmem.aluResult r
    (substitute s.memwb.instr s.memwb.writeData r
      (substitute s.wbend.instr s.wbend.writeData r v))

/-- A' (40 R74), by the raw field0 of the word in ID/EX whatever its opcode. -/
def operandA (s : State) : Word := forward s (field0 s.idex.instr) s.idex.valA

/-- B' (40 R74), by the raw field1 of the word in ID/EX whatever its opcode. -/
def operandB (s : State) : Word := forward s (field1 s.idex.instr) s.idex.valB

/-- The ALU sum of add (42 R120), modulo 2^32. -/
def aluAdd (s : State) : Word := operandA s + operandB s

/-- The ALU result of nor (42 R121). -/
def aluNor (s : State) : Word := ~~~(operandA s ||| operandB s)

/-- The effective address of lw and sw (43 R130, R131): base plus offset, in words, modulo 2^32. -/
def aluAddress (s : State) : Word := operandA s + s.idex.offset

/-- The ALU difference of beq (44 R140), read by no rule. -/
def aluDifference (s : State) : Word := operandA s - operandB s

/-- What EX/MEM `aluResult` holds for an opcode with no ALU function (41 R98): its old value. -/
def aluKept (s : State) : Word := s.exmem.aluResult

/-- The execute stage of every opcode (41 R97), given the ALU result of this one (41 R98). -/
def latchExecute (alu : Word) (s : State) : State :=
  s.setExmem
    { instr := s.idex.instr
      branchTarget := s.idex.pcPlus1 + s.idex.offset
      eq := equalityFlag (operandA s) (operandB s)
      aluResult := alu
      valB := operandB s }

/-- The memory stage of an opcode that sets MEM/WB `writeData` (41 R99). -/
def latchMemory (writeData : Word) (s : State) : State :=
  s.setMemwb { instr := s.exmem.instr, writeData := writeData }

/-- The memory stage of sw and beq: `writeData` is not written (41 R92, R99). -/
def latchMemoryKept (s : State) : State :=
  s.setMemwb { s.memwb with instr := s.exmem.instr }

/-- The writeback stage of every opcode: WB/END takes MEM/WB unchanged (41 R101). -/
def retire (s : State) : State :=
  s.setWbend { instr := s.memwb.instr, writeData := s.memwb.writeData }

/-- `x[r] <- cur.MEMWB.writeData` (41 R100), with the retirement of 41 R101. -/
def retireTo (r : Reg) (s : State) : State :=
  (retire s).setReg (s.reg.write r s.memwb.writeData)

/-- The writeback of an R-class word (41 R100): a destination above 7 faults (30 R55). -/
def retireRClass (destReg : BitVec 16) (s : State) : Outcome :=
  if destReg.toNat > 7 then raise (.reservedDestFault destReg) s
  else .next (retireTo (destReg.setWidth 3) s)

end Sys2Proof.Machine
end

