-- ==== Sys2Proof/Machine/AddNor.lean ====
section
/-! DEFINITION. The meanings of add and nor (42 R120, R121), stage by stage.  The source registers were read in Decode
(41 R96) and are forwarded by the resolver (40 R74). -/

namespace Sys2Proof.Machine

/-- 42 R120. -/
def execAdd (_regA _regB : Reg) (destReg : BitVec 16) (s : State) : Outcome :=
  match s.stage with
  | .execute => .next (latchExecute (aluAdd s) s)
  | .memory => .next (latchMemory s.exmem.aluResult s)
  | .writeback => retireRClass destReg s

/-- 42 R121. -/
def execNor (_regA _regB : Reg) (destReg : BitVec 16) (s : State) : Outcome :=
  match s.stage with
  | .execute => .next (latchExecute (aluNor s) s)
  | .memory => .next (latchMemory s.exmem.aluResult s)
  | .writeback => retireRClass destReg s

end Sys2Proof.Machine
end

