-- ==== Sys2Proof/Machine/Control.lean ====
section
/-! DEFINITION. The meanings of beq and jalr (44 R140, R141), stage by stage. -/

namespace Sys2Proof.Machine

/-- 44 R140: a branch whose equality flag is set redirects in the memory stage. -/
def execBeq (_regA _regB : Reg) (_offset : BitVec 16) (s : State) : Outcome :=
  match s.stage with
  | .execute => .next (latchExecute (aluDifference s) s)
  | .memory =>
    if s.exmem.eq then .next (squashYounger s.exmem.branchTarget (latchMemoryKept s))
    else .next (latchMemoryKept s)
  | .writeback => .next (retire s)

/-- 44 R141: no effect, or a fault at writeback, by JALR_MODE. -/
def execJalr (_regA _regB : Reg) (_unused : BitVec 16) (s : State) : Outcome :=
  match s.stage with
  | .execute => .next (latchExecute (aluKept s) s)
  | .memory => .next (latchMemory s.exmem.aluResult s)
  | .writeback =>
    match s.params.jalrMode with
    | .noop => .next (retire s)
    | .faultAtWriteback => raise (.unimplementedFault s.memwb.instr) s

end Sys2Proof.Machine
end

