-- ==== Sys2Proof/Machine/LoadStore.lean ====
section
/-! DEFINITION. The meanings of lw and sw (43 R130, R131), stage by stage. -/

namespace Sys2Proof.Machine

/-- The range check of a data access (20 R36) before what the access does, given the word address. -/
def dataAccess (s : State) (access : Nat → State) : Outcome :=
  if addressValid s.params s.exmem.aluResult then .next (access s.exmem.aluResult.toNat)
  else raise (.dataAddressFault s.exmem.aluResult) s

/-- 43 R130. -/
def execLw (_regA regB : Reg) (_offset : BitVec 16) (s : State) : Outcome :=
  match s.stage with
  | .execute => .next (latchExecute (aluAddress s) s)
  | .memory => dataAccess s fun a => latchMemory (s.dmem.read a) s
  | .writeback => .next (retireTo regB s)

/-- 43 R131. -/
def execSw (_regA _regB : Reg) (_offset : BitVec 16) (s : State) : Outcome :=
  match s.stage with
  | .execute => .next (latchExecute (aluAddress s) s)
  | .memory => dataAccess s fun a => (latchMemoryKept s).setDmem (s.dmem.write a s.exmem.valB)
  | .writeback => .next (retire s)

end Sys2Proof.Machine
end

