-- ==== Sys2Proof/Machine/System.lean ====
section
/-! DEFINITION. The meanings of halt and noop (45 R150, R151), and what the pipeline does with a word outside the
instruction set (45 R152), stage by stage. -/

namespace Sys2Proof.Machine

/-- 45 R150.  A halt that has reached MEM/WB has halted the core (41 R110): its writeback is never performed, and the
final state stays as it is. -/
def execHalt (_unused : BitVec 22) (s : State) : Outcome :=
  match s.stage with
  | .execute => .next (latchExecute (aluKept s) s)
  | .memory => .next (latchMemory s.exmem.aluResult s)
  | .writeback => .next s

/-- 45 R151. -/
def execNoop (_unused : BitVec 22) (s : State) : Outcome :=
  match s.stage with
  | .execute => .next (latchExecute (aluKept s) s)
  | .memory => .next (latchMemory s.exmem.aluResult s)
  | .writeback => .next (retire s)

/-- 45 R152: an ILLEGAL word, no instruction of the table: no effect, or a fault at writeback, by ILLEGAL_OP_MODE. -/
def runIllegal (s : State) : Outcome :=
  match s.stage with
  | .execute => .next (latchExecute (aluKept s) s)
  | .memory => .next (latchMemory s.exmem.aluResult s)
  | .writeback =>
    match s.params.illegalOpMode with
    | .noop => .next (retire s)
    | .faultAtWriteback => raise (.illegalOpcodeFault s.memwb.instr) s

end Sys2Proof.Machine
end

