-- ==== Sys2Proof/Machine/Dispatch.lean ====
section
/-! DEFINITION. What an instruction does in the stage `s.stage` names, one arm per constructor (41 R98, R99, R100: each
opcode's contribution to a stage is dispatched to its family). -/

namespace Sys2Proof.Machine

def exec (i : Instr) (s : State) : Host.Outcome State Fault Refusal :=
  match i with
  | .add regA regB destReg => Sys2Proof.Machine.execAdd regA regB destReg s
  | .nor regA regB destReg => Sys2Proof.Machine.execNor regA regB destReg s
  | .lw regA regB offset => Sys2Proof.Machine.execLw regA regB offset s
  | .sw regA regB offset => Sys2Proof.Machine.execSw regA regB offset s
  | .beq regA regB offset => Sys2Proof.Machine.execBeq regA regB offset s
  | .jalr regA regB unused => Sys2Proof.Machine.execJalr regA regB unused s
  | .halt unused => Sys2Proof.Machine.execHalt unused s
  | .noop unused => Sys2Proof.Machine.execNoop unused s

end Sys2Proof.Machine
end

