-- ==== Sys2Proof/Machine/Resolver.lean ====
section
/-! DEFINITION. The hazard resolver's two decisions (40 R70): the load-use stall and the squash on a taken branch.  It
is combinational over the current state. -/

namespace Sys2Proof.Machine

/-- 40 R71: an lw in ID/EX whose destination is field0 or field1 of the word in IF/ID, whatever that word's opcode. -/
def stall (s : State) : Bool :=
  decide (opname s.idex.instr = .lw)
    && (field0 s.ifid.instr == field1 s.idex.instr || field1 s.ifid.instr == field1 s.idex.instr)

/-- 40 R78: a beq in EX/MEM with the equality flag set. -/
def squash (s : State) : Bool := decide (opname s.exmem.instr = .beq) && s.exmem.eq

end Sys2Proof.Machine
end

