-- ==== Sys2Proof/Machine/Frontend.lean ====
section
/-! DEFINITION. Fetch and Decode (41 R94 to R96), the two stages that treat every word alike.  Each reads the current
state and writes only its own outputs. -/

namespace Sys2Proof.Machine

/-- 41 R94, R95: with neither stall nor squash, instruction memory is read at the pc, checked first, and the pc
advances; otherwise it is not read, and only `pcPlus1` is computed. -/
def fetchStage (s : State) : Outcome :=
  if stall s || squash s then
    .next (s.setIfid { s.ifid with pcPlus1 := s.pc + 1 })
  else if addressValid s.params s.pc then
    .next ((s.setIfid { instr := s.imem.read s.pc.toNat, pcPlus1 := s.pc + 1 }).setPc (s.pc + 1))
  else raise (.fetchAddressFault s.pc) s

/-- 41 R96: both registers and the offset are read for every word. -/
def decodeStage (s : State) : State :=
  s.setIdex
    { instr := s.ifid.instr
      pcPlus1 := s.ifid.pcPlus1
      valA := s.reg.read (field0 s.ifid.instr)
      valB := s.reg.read (field1 s.ifid.instr)
      offset := offset s.ifid.instr }

end Sys2Proof.Machine
end

