-- ==== Sys2Proof/Machine/Cycle.lean ====
section
/-! DEFINITION. The cycle (41 R90, R91).  Every stage is run on the CURRENT state, each on its own copy, and the next
state takes from each copy what that stage writes; then the stall and the squash override, in that order. -/

namespace Sys2Proof.Machine

/-- One of the three opcode-dependent stages of the cycle, for the word in that stage's pipeline register: its
instruction's meaning, or, for a word outside the set, 45 R152. -/
def runStage (k : Stage) (s : State) : Outcome :=
  match decode (stageWord k s) with
  | .ok i => exec i (s.setStage k)
  | .error _ => runIllegal (s.setStage k)

/-- `nxt` before the overrides (41 R92, R93): a copy of `cur`, with the counter advanced and, from each stage's copy,
the fields that stage writes (41 R102: no two stages write one field). -/
def assemble (cur writeback memory execute fetch : State) : State :=
  { cur with
    cycles := cur.cycles + 1
    reg := writeback.reg
    wbend := writeback.wbend
    dmem := memory.dmem
    memwb := memory.memwb
    exmem := execute.exmem
    idex := (decodeStage cur).idex
    ifid := fetch.ifid
    pc := fetch.pc }

/-- The stall (40 R72): the bubble into ID/EX, with IF/ID and the pc held.  DEDUCED (log entry 5): it is applied before
the squash even where both arise, as 40 R80 orders, which shows in IF/ID `pcPlus1` alone.  Unsafe for that field. -/
def applyStall (cur nxt : State) : State :=
  if stall cur then ((nxt.setIdex (bubbleIdex nxt.idex)).setIfid cur.ifid).setPc cur.pc else nxt

/-- The squash (40 R79, R80), after the stall and overriding it, to the pc that the branch's memory stage set. -/
def applySquash (cur memory nxt : State) : State :=
  if squash cur then squashYounger memory.pc nxt else nxt

/-- 41 R91.  A halted core returns its state unchanged (41 R110, 92 D23).  Writeback is asked before Memory and Memory
before Fetch, so that the fault recorded is the oldest instruction's (60 R163). -/
def cycle (s : State) : Outcome :=
  if halted s then .next s
  else
    andThen (runStage .writeback s) fun writeback =>
    andThen (runStage .memory s) fun memory =>
    andThen (runStage .execute s) fun execute =>
    andThen (fetchStage s) fun fetch =>
    .next (applySquash s memory (applyStall s (assemble s writeback memory execute fetch)))

/-- The instruction word `w` placed where the machine fetches next: in instruction memory at the pc, with the pipeline
registers' words forced to NOOP so that no halt, stall or squash keeps the next cycle from fetching it: the load of one
word, before any cycle of it (log entry 6). -/
def placeAtFetch (s : State) (w : Word) : State :=
  ((squashYounger s.pc s).setImem (s.imem.write s.pc.toNat w)).setMemwb { s.memwb with instr := noopWord }

/-- The instruction word `w` placed where the NEXT cycle runs it: in instruction memory at the pc, and, its fetch and its
decode done (41 R94, R96), alone in ID/EX with the registers' values, the pc behind it.  No word in flight is older, and
WB/END's is forced to NOOP too, so nothing is forwarded over those values (log entry 6). -/
def placeAtExecute (s : State) (w : Word) : State :=
  (((decodeStage ((placeAtFetch s w).setIfid { instr := w, pcPlus1 := s.pc + 1 })).setIfid
    { instr := noopWord, pcPlus1 := s.pc + 1 }).setPc (s.pc + 1)).setWbend { s.wbend with instr := noopWord }

end Sys2Proof.Machine
end

