-- ==== Sys2Proof/Machine/Step.lean ====
section
/-! DEFINITION. One step of the machine: one clock cycle (00 R1, R5; 41 R90). -/

namespace Sys2Proof.Machine

/-- `nxt = Step(cur)` (41 R90, R91). -/
def step (s : State) : Host.Outcome State Fault Refusal := Sys2Proof.Machine.cycle s

/-- `s` with the instruction whose low `nbits` bits are `w` (the rest zero) at the fetch address, fetched and
decoded, so that the very next step runs it and no other instruction (log entry 6). -/
def State.withFetchWord (s : State) (nbits w : Nat) : State :=
  Sys2Proof.Machine.placeAtExecute s (BitVec.ofNat 32 (w % 2 ^ nbits))

end Sys2Proof.Machine
end

