-- ==== Sys2Proof/Machine/Load.lean ====
section
/-! DEFINITION. Loading a program before reset (70 R182, R183): the lines of the machine-code file, the two memories
built from them, and the state after reset for that image and those parameters (10 R26, 70 R180, R181). -/

namespace Sys2Proof.Machine

/-- A refused load (70 R183(c)); the usage and I/O errors are the host's and never reach the model. -/
inductive LoadError where
  /-- The line at this address is no integer of the form and range of 70 R182(c), or lies past the memory's end
  (70 R182(d)). -/
  | parseError (address : Nat)
  deriving DecidableEq, Repr

/-- The value of a decimal digit. -/
def digitValue (c : Char) : Option Nat :=
  if 48 ≤ c.toNat ∧ c.toNat ≤ 57 then some (c.toNat - 48) else none

/-- Decimal digits read after the value `acc` of those before them. -/
def digitsFrom (acc : Nat) : List Char → Option Nat
  | [] => some acc
  | c :: rest =>
    match digitValue c with
    | some d => digitsFrom (acc * 10 + d) rest
    | none => none

/-- One or more decimal digits. -/
def digits : List Char → Option Nat
  | [] => none
  | c :: rest => digitsFrom 0 (c :: rest)

/-- 70 R182(c): an optional `-` followed by one or more decimal digits. -/
def lineValue : List Char → Option Int
  | [] => none
  | c :: rest =>
    if c = '-' then (digits rest).map fun n => -(n : Int)
    else (digits (c :: rest)).map fun n => (n : Int)

/-- 70 R182(c): the value lies in [-2^31, 2^32 - 1], and the word stored is the value mod 2^32. -/
def wordOfValue (v : Int) : Option Word :=
  if -(2 ^ 31) ≤ v ∧ v ≤ 2 ^ 32 - 1 then some (BitVec.ofInt 32 v) else none

/-- The words of the lines from `address` on, refusing the first line that is malformed or past `memWords`
(70 R182(b) to (d)). -/
def readLines (memWords : Nat) (address : Nat) : List (List Char) → Except LoadError (List Word)
  | [] => .ok []
  | line :: rest =>
    if memWords ≤ address then .error (.parseError address)
    else
      match (lineValue line).bind wordOfValue with
      | none => .error (.parseError address)
      | some w =>
        match readLines memWords (address + 1) rest with
        | .ok ws => .ok (w :: ws)
        | .error e => .error e

/-- The words of an image at `address` and on, 0 beyond (70 R182(e)), in the canonical form. -/
def imageMemory (address : Nat) : List Word → Memory
  | [] => []
  | w :: rest => Memory.cons address w (imageMemory (address + 1) rest)

/-- 70 R182(f): data memory after a load. -/
def initialDmem (mode : DmemInit) (image : List Word) : Memory :=
  match mode with
  | .image => imageMemory 0 image
  | .zero => []

/-- The state after reset for an image and the parameters of the run (10 R26, 70 R181). -/
def loadImage (p : Params) (image : List Word) : State :=
  (((State.reset.setImem (imageMemory 0 image)).setDmem (initialDmem p.dmemInit image))).setParams
    { p with imageLen := image.length }

/-- 70 R182, R183: the state after reset for a machine-code file; a refused load has no state. -/
def loadFile (p : Params) (lines : List (List Char)) : Except LoadError State :=
  match readLines p.memWords 0 lines with
  | .ok image => .ok (loadImage p image)
  | .error e => .error e

end Sys2Proof.Machine
end

