-- ==== Sys2Proof/Safety.lean ====
section
/-! DEFINITION. The terms claims about CORE are stated in: the run status (10 R25), which fault a cycle raises (60 R162,
R163), what each stage leaves by the tables of 41 R98 to R100, the invariants of a run (40 R82, R84), and the
sequential machine that the pipeline must agree with (40 R84, 70 R190).  Each is written from the spec's rules on
instruction words, apart from the cycle's own code. -/

namespace Sys2Proof.Machine

/-! ## Run status (10 R25) -/

/-- 10 R25. -/
inductive RunStatus where
  | running | halted | faulted (f : Fault)
  deriving DecidableEq, Repr

/-- A state is halted exactly when MEM/WB holds a halt (10 R25, 41 R110), and running otherwise. -/
def State.runStatus (s : State) : RunStatus :=
  if opname s.memwb.instr = .halt then .halted else .running

/-- The run status a step leaves: `raise` enters faulted, which no state follows (60 R161). -/
def statusAfter : Outcome → Option RunStatus
  | .next s => some s.runStatus
  | .fault f => some (.faulted f)
  | .refused _ => none

/-! ## Which fault a cycle raises (60 R162, R163) -/

/-- Codes 3, 4 and 5 of 60 R162: the word in MEM/WB. -/
def writebackFault (s : State) : Option Fault :=
  match opname s.memwb.instr with
  | .add | .nor =>
    if 7 < (field2 s.memwb.instr).toNat then some (.reservedDestFault (field2 s.memwb.instr) s.cycles) else none
  | .jalr =>
    if s.params.jalrMode = .faultAtWriteback then some (.unimplementedFault s.memwb.instr s.cycles) else none
  | .illegal =>
    if s.params.illegalOpMode = .faultAtWriteback then some (.illegalOpcodeFault s.memwb.instr s.cycles) else none
  | .lw | .sw | .beq | .halt | .noop => none

/-- Code 2 of 60 R162: the word in EX/MEM. -/
def memoryFault (s : State) : Option Fault :=
  match opname s.exmem.instr with
  | .lw | .sw =>
    if 0 ≤ s.exmem.aluResult.toInt ∧ s.exmem.aluResult.toInt < s.params.memWords then none
    else some (.dataAddressFault s.exmem.aluResult s.cycles)
  | .add | .nor | .beq | .jalr | .halt | .noop | .illegal => none

/-- Code 1 of 60 R162: the fetch, when it reads instruction memory. -/
def fetchFault (s : State) : Option Fault :=
  if stall s = true ∨ squash s = true ∨ (0 ≤ s.pc.toInt ∧ s.pc.toInt < s.params.memWords) then none
  else some (.fetchAddressFault s.pc s.cycles)

/-- 60 R163: the oldest instruction's fault: writeback over memory over fetch. -/
def cycleFault (s : State) : Option Fault :=
  (writebackFault s).or ((memoryFault s).or (fetchFault s))

/-! ## What each stage leaves -/

/-- The ALU table of 41 R98, on the word in ID/EX. -/
def aluTable (s : State) : Word :=
  match opname s.idex.instr with
  | .add => operandA s + operandB s
  | .nor => ~~~(operandA s ||| operandB s)
  | .lw | .sw => operandA s + s.idex.offset
  | .beq => operandA s - operandB s
  | .jalr | .halt | .noop | .illegal => s.exmem.aluResult

/-- MEM/WB `writeData` by 41 R99, on the word in EX/MEM. -/
def writeDataTable (s : State) : Word :=
  match opname s.exmem.instr with
  | .lw => s.dmem.read s.exmem.aluResult.toNat
  | .sw | .beq => s.memwb.writeData
  | .add | .nor | .jalr | .halt | .noop | .illegal => s.exmem.aluResult

/-- Data memory by 41 R99, on the word in EX/MEM. -/
def dmemTable (s : State) : Memory :=
  match opname s.exmem.instr with
  | .sw => s.dmem.write s.exmem.aluResult.toNat s.exmem.valB
  | .add | .nor | .lw | .beq | .jalr | .halt | .noop | .illegal => s.dmem

/-- The register file by 41 R100, on the word in MEM/WB. -/
def regTable (s : State) : RegFile :=
  match opname s.memwb.instr with
  | .add | .nor => s.reg.write ((field2 s.memwb.instr).setWidth 3) s.memwb.writeData
  | .lw => s.reg.write (field1 s.memwb.instr) s.memwb.writeData
  | .sw | .beq | .jalr | .halt | .noop | .illegal => s.reg

/-- The next state of a cycle that runs and raises nothing, field by field over the current state (41 R91 to R101,
40 R72, R79, R80; IF/ID `pcPlus1` under stall and squash DEDUCED, log entry 5). -/
def nextState (s : State) : State where
  pc := if squash s then s.exmem.branchTarget else if stall s then s.pc else s.pc + 1
  imem := s.imem
  dmem := dmemTable s
  reg := regTable s
  ifid :=
    { instr := if squash s then noopWord else if stall s then s.ifid.instr else s.imem.read s.pc.toNat
      pcPlus1 := if stall s then s.ifid.pcPlus1 else s.pc + 1 }
  idex :=
    { instr := if squash s || stall s then noopWord else s.ifid.instr
      pcPlus1 := s.ifid.pcPlus1
      valA := s.reg.read (field0 s.ifid.instr)
      valB := s.reg.read (field1 s.ifid.instr)
      offset := offset s.ifid.instr }
  exmem :=
    { instr := if squash s then noopWord else s.idex.instr
      branchTarget := s.idex.pcPlus1 + s.idex.offset
      eq := operandA s == operandB s
      aluResult := aluTable s
      valB := operandB s }
  memwb := { instr := s.exmem.instr, writeData := writeDataTable s }
  wbend := { instr := s.memwb.instr, writeData := s.memwb.writeData }
  cycles := s.cycles + 1
  params := s.params
  stage := s.stage

/-! ## What an instruction writes, stage by stage -/

/-- The register an instruction writes in the stage the state names: add, nor and lw in writeback (41 R100). -/
def writesReg : Instr → State → Option Reg
  | .add _ _ d, s => if s.stage = .writeback then some (d.setWidth 3) else none
  | .nor _ _ d, s => if s.stage = .writeback then some (d.setWidth 3) else none
  | .lw _ b _, s => if s.stage = .writeback then some b else none
  | .sw _ _ _, _ => none
  | .beq _ _ _, _ => none
  | .jalr _ _ _, _ => none
  | .halt _, _ => none
  | .noop _, _ => none

/-- The word address an instruction stores to in the stage the state names: sw in memory, at EX/MEM `aluResult`
(41 R99). -/
def storesTo : Instr → State → Option Nat
  | .sw _ _ _, s => if s.stage = .memory then some s.exmem.aluResult.toNat else none
  | .add _ _ _, _ => none
  | .nor _ _ _, _ => none
  | .lw _ _ _, _ => none
  | .beq _ _ _, _ => none
  | .jalr _ _ _, _ => none
  | .halt _, _ => none
  | .noop _, _ => none

/-- The word writes register `r` in writeback (41 R100): an add or nor whose whole field2 names it, or an lw whose field1
does. -/
abbrev WritesBack (w : Word) (r : Reg) : Prop :=
  ((opname w = .add ∨ opname w = .nor) ∧ (field2 w).toNat = r.toNat) ∨ (opname w = .lw ∧ field1 w = r)

/-- The instruction redirects the pc in the stage the state names: a beq with the equality flag set, in memory
(40 R78). -/
def redirects : Instr → State → Bool
  | .beq _ _ _, s => decide (s.stage = .memory) && s.exmem.eq
  | .add _ _ _, _ => false
  | .nor _ _ _, _ => false
  | .lw _ _ _, _ => false
  | .sw _ _ _, _ => false
  | .jalr _ _ _, _ => false
  | .halt _, _ => false
  | .noop _, _ => false

/-! ## Where an instruction stands, and runs of cycles -/

/-- The state asks for stage `k`, and the pipeline register that stage reads holds the instruction's word. -/
abbrev InStage (k : Stage) (i : Instr) (s : State) : Prop := s.stage = k ∧ stageWord k s = encode i

/-- `n` cycles (41 R112), stopping at a fault. -/
def runCycles : Nat → State → Outcome
  | 0, s => .next s
  | n + 1, s => andThen (step s) (runCycles n)

/-! ## Invariants -/

/-- Both memories in canonical form and within `MEM_WORDS` (10 R14, R15). -/
structure MemoriesOk (s : State) : Prop where
  imemWf : s.imem.wf = true
  dmemWf : s.dmem.wf = true
  imemWithin : s.imem.within s.params.memWords = true
  dmemWithin : s.dmem.within s.params.memWords = true

/-- What the interlock and the decode stage guarantee in every reachable state (40 R82, R83): a bubble in ID/EX, or an
instruction that an lw in EX/MEM does not feed and whose decoded operands are the registers' values but for what
WB/END has just written. -/
structure PipelineInv (s : State) : Prop where
  loadNotAdjacent : s.idex.instr = noopWord ∨ opname s.exmem.instr ≠ .lw ∨
    (field0 s.idex.instr ≠ field1 s.exmem.instr ∧ field1 s.idex.instr ≠ field1 s.exmem.instr)
  valAFresh : s.idex.instr = noopWord ∨
    substitute s.wbend.instr s.wbend.writeData (field0 s.idex.instr) s.idex.valA = s.reg.read (field0 s.idex.instr)
  valBFresh : s.idex.instr = noopWord ∨
    substitute s.wbend.instr s.wbend.writeData (field1 s.idex.instr) s.idex.valB = s.reg.read (field1 s.idex.instr)
  offsetFresh : s.idex.instr = noopWord ∨ s.idex.offset = offset s.idex.instr

/-- The value register `r` has once the instructions in MEM/WB and EX/MEM have written back (40 R84). -/
def olderValue (s : State) (r : Reg) : Word :=
  if produces s.exmem.instr r then
    if opname s.exmem.instr = .lw then s.dmem.read s.exmem.aluResult.toNat else s.exmem.aluResult
  else if produces s.memwb.instr r then s.memwb.writeData
  else s.reg.read r

/-! ## Sequential execution (40 R84, 70 R190) -/

/-- What a program can see of the machine: the address of the next instruction (none once halted), the registers and
data memory. -/
structure Arch where
  next : Option Word
  reg : RegFile
  dmem : Memory
  deriving DecidableEq, Repr

/-- Writing an R-class destination, none where it does not exist (30 R55). -/
def Arch.writeRClass (a : Arch) (w : Word) (v : Word) : Option Arch :=
  if (field2 w).toNat ≤ 7 then some { a with reg := a.reg.write ((field2 w).setWidth 3) v } else none

/-- The word at a data address, with its range check (20 R36). -/
def Arch.load (a : Arch) (p : Params) (address : Word) : Option Word :=
  if addressValid p address then some (a.dmem.read address.toNat) else none

/-- A store, with its range check (20 R36). -/
def Arch.store (a : Arch) (p : Params) (address v : Word) : Option Arch :=
  if addressValid p address then some { a with dmem := a.dmem.write address.toNat v } else none

/-- The architectural effect of one instruction word (42 R120, R121, 43 R130, R131, 44 R140, R141, 45 R150 to R152),
`pcPlus1` being its address plus 1; none where it faults. -/
def architecturalEffect (p : Params) (w pcPlus1 : Word) (a : Arch) : Option Arch :=
  let go : Arch := { a with next := some pcPlus1 }
  let x := a.reg.read (field0 w)
  let y := a.reg.read (field1 w)
  match opname w with
  | .add => go.writeRClass w (x + y)
  | .nor => go.writeRClass w (~~~(x ||| y))
  | .lw => (a.load p (x + offset w)).map fun v => { go with reg := a.reg.write (field1 w) v }
  | .sw => go.store p (x + offset w) y
  | .beq => some { a with next := some (if x = y then pcPlus1 + offset w else pcPlus1) }
  | .jalr => if p.jalrMode = .noop then some go else none
  | .halt => some { a with next := none }
  | .noop => some go
  | .illegal => if p.illegalOpMode = .noop then some go else none

/-- One instruction of sequential execution; a halted machine stays as it is. -/
def sequentialStep (p : Params) (imem : Memory) (a : Arch) : Option Arch :=
  match a.next with
  | none => some a
  | some pc => if addressValid p pc then architecturalEffect p (imem.read pc.toNat) (pc + 1) a else none

/-- `n` instructions of sequential execution. -/
def sequentialRun (p : Params) (imem : Memory) : Nat → Arch → Option Arch
  | 0, a => some a
  | n + 1, a => (sequentialStep p imem a).bind (sequentialRun p imem n)

/-- The word leaves the sequence: a halt, or a beq that is taken in `a`. -/
def leavesSequence (w : Word) (a : Arch) : Bool :=
  match opname w with
  | .halt => true
  | .beq => a.reg.read (field0 w) == a.reg.read (field1 w)
  | .add | .nor | .lw | .sw | .jalr | .noop | .illegal => false

/-- The word in IF/ID completed, then the fetch at the pc. -/
def drainIfid (s : State) (a : Arch) : Option Arch :=
  (architecturalEffect s.params s.ifid.instr s.ifid.pcPlus1 a).map fun b =>
    if leavesSequence s.ifid.instr a then b else { b with next := some s.pc }

/-- The word in ID/EX completed, then those behind it unless it leaves the sequence. -/
def drainIdex (s : State) (a : Arch) : Option Arch :=
  (architecturalEffect s.params s.idex.instr s.idex.pcPlus1 a).bind fun b =>
    if leavesSequence s.idex.instr a then some b else drainIfid s b

/-- The word in EX/MEM completed from its latched results, then those behind it unless it leaves the sequence. -/
def drainExmem (s : State) (a : Arch) : Option Arch :=
  match opname s.exmem.instr with
  | .add | .nor => (a.writeRClass s.exmem.instr s.exmem.aluResult).bind (drainIdex s)
  | .lw =>
    (a.load s.params s.exmem.aluResult).bind fun v =>
      drainIdex s { a with reg := a.reg.write (field1 s.exmem.instr) v }
  | .sw => (a.store s.params s.exmem.aluResult s.exmem.valB).bind (drainIdex s)
  | .beq => if s.exmem.eq then some { a with next := some s.exmem.branchTarget } else drainIdex s a
  | .jalr => if s.params.jalrMode = .noop then drainIdex s a else none
  | .halt => some { a with next := none }
  | .noop => drainIdex s a
  | .illegal => if s.params.illegalOpMode = .noop then drainIdex s a else none

/-- The architectural state a pipeline state stands for: every instruction in flight completed in program order, none
where one of them faults. -/
def drain (s : State) : Option Arch :=
  let a : Arch := { next := none, reg := s.reg, dmem := s.dmem }
  match opname s.memwb.instr with
  | .add | .nor => (a.writeRClass s.memwb.instr s.memwb.writeData).bind (drainExmem s)
  | .lw => drainExmem s { a with reg := s.reg.write (field1 s.memwb.instr) s.memwb.writeData }
  | .jalr => if s.params.jalrMode = .noop then drainExmem s a else none
  | .illegal => if s.params.illegalOpMode = .noop then drainExmem s a else none
  | .halt => some a
  | .sw | .beq | .noop => drainExmem s a

end Sys2Proof.Machine
end

