-- ==== Sys2Proof/WellFormed.lean ====
section
/-! DEFINITION. Which instructions are well formed (30 R55), and which are canonical, as the assembler emits them
(30 R60).  An ill-formed `add` or `nor` still decodes and still runs up to its writeback, which faults (41 R100). -/

namespace Sys2Proof

/-- 30 R55: "A well-formed R-class word has `f2(w) <= 7`"; every other form is well formed (30 R57). -/
def Instr.wellFormed : Instr → Bool
  | .add _ _ destReg => decide (destReg.toNat ≤ 7)
  | .nor _ _ destReg => decide (destReg.toNat ≤ 7)
  | .lw _ _ _ => true
  | .sw _ _ _ => true
  | .beq _ _ _ => true
  | .jalr _ _ _ => true
  | .halt _ => true
  | .noop _ => true

/-- 30 R60: well formed, with every unused bit zero. -/
def Instr.canonical : Instr → Bool
  | .add _ _ destReg => decide (destReg.toNat ≤ 7)
  | .nor _ _ destReg => decide (destReg.toNat ≤ 7)
  | .lw _ _ _ => true
  | .sw _ _ _ => true
  | .beq _ _ _ => true
  | .jalr _ _ unused => unused == 0
  | .halt unused => unused == 0
  | .noop unused => unused == 0

end Sys2Proof
end

