-- ==== Sys2Proof/Certificates/Slice0/Obligations.lean ====
section
/-! DEFINITION. The statements about CORE, each from the numbered rules of spec/ named in its docstring. -/

open Sys2Proof Sys2Proof.Machine

/-! ## Encoding and decoding -/

/-- 30 R60: "Decoding inverts this on canonical words"; here for every instruction, its unused bits included. -/
def Obligations.DecodeOfEncodeIsIdentity : Prop :=
  ∀ i : Instr, decode (encode i) = .ok i

/-- 30 R51, R53 with 95 V2: a word that decodes is the encoding of what it decodes to, so no bit is dropped. -/
def Obligations.EncodeOfDecodeIsIdentity : Prop :=
  ∀ (w : Word) (i : Instr), decode w = .ok i → encode i = w

/-- 30 R54: a word is ILLEGAL, and rejected as such by the decoder, exactly when w[31:25] is not 0. -/
def Obligations.DecodeRejectsExactlyHighBits : Prop :=
  ∀ w : Word,
    (decode w = .error (.illegalOpcode w) ↔ w.extractLsb' 25 7 ≠ 0) ∧
    (opname w = .illegal ↔ w.extractLsb' 25 7 ≠ 0)

/-- 30 R51: the opcode selector is the signed value of w[31:22], in [-512, 511], and w[24:22] when w[31:25] is 0. -/
def Obligations.SelectorIsSignedHighField : Prop :=
  ∀ w : Word,
    op w = (w.extractLsb' 22 10).toInt ∧ -512 ≤ op w ∧ op w ≤ 511 ∧
    (w.extractLsb' 25 7 = 0 → op w = ((w.extractLsb' 22 3).toNat : Int))

/-- 30 R53: every instruction's word matches its row of the opcode table under the mask 0xFFC00000, and a word that
matches a row has that row's name. -/
def Obligations.EncodingMatchesOpcodeTable : Prop :=
  ∀ i : Instr,
    encode i &&& 0xFFC00000 =
      (match i.opName with
      | .add => 0x00000000
      | .nor => 0x00400000
      | .lw => 0x00800000
      | .sw => 0x00C00000
      | .beq => 0x01000000
      | .jalr => 0x01400000
      | .halt => 0x01800000
      | .noop => 0x01C00000
      | .illegal => 0xFFFFFFFF) ∧
    ∀ w : Word, w &&& 0xFFC00000 = encode i &&& 0xFFC00000 → opname w = i.opName

/-- 30 R52: the offset is field2 below 2^15 and field2 - 2^16 from there on, in [-32768, 32767]. -/
def Obligations.OffsetIsTwosComplement : Prop :=
  ∀ w : Word,
    (offset w).toInt =
      (if (field2 w).toNat < 2 ^ 15 then ((field2 w).toNat : Int) else ((field2 w).toNat : Int) - 2 ^ 16) ∧
    -32768 ≤ (offset w).toInt ∧ (offset w).toInt ≤ 32767

/-- 95 V1: words written out from 30 R50, one of every opcode, a reserved form, and the ILLEGAL words. -/
def Obligations.WrittenOutWordsDecode : Prop :=
  decode 0x00090002 = .ok (.add 1 1 2) ∧
  decode 0x005C0005 = .ok (.nor 3 4 5) ∧
  decode 0x00810000 = .ok (.lw 0 1 0) ∧
  decode 0x00C4000B = .ok (.sw 0 4 11) ∧
  decode 0x0100FFFB = .ok (.beq 0 0 0xFFFB) ∧
  decode 0x014A0000 = .ok (.jalr 1 2 0) ∧
  decode 0x01800000 = .ok (.halt 0) ∧
  decode 0x01C00000 = .ok (.noop 0) ∧
  decode 0x003FFFFF = .ok (.add 7 7 0xFFFF) ∧
  decode 0x02000000 = .error (.illegalOpcode 0x02000000) ∧
  decode 0xFFFFFFFF = .error (.illegalOpcode 0xFFFFFFFF)

/-! ## Reset and load -/

/-- 10 R26, 70 R180, R182: the state after reset, for every image and every choice of the parameters.  The fields other than
`instr`, the words beyond the image and data memory hold what the spec's decisions D12, D3 and D2 say. -/
def Obligations.LoadedStateHoldsResetValues : Prop :=
  ∀ (p : Params) (image : List Word),
    (loadImage p image).pc = 0 ∧ (loadImage p image).cycles = 0 ∧
    (∀ r : Reg, (loadImage p image).reg.read r = 0) ∧
    (loadImage p image).ifid = ⟨noopWord, 0⟩ ∧
    (loadImage p image).idex = ⟨noopWord, 0, 0, 0, 0⟩ ∧
    (loadImage p image).exmem = ⟨noopWord, 0, false, 0, 0⟩ ∧
    (loadImage p image).memwb = ⟨noopWord, 0⟩ ∧
    (loadImage p image).wbend = ⟨noopWord, 0⟩ ∧
    (∀ a : Nat, (loadImage p image).imem.read a = image.getD a 0) ∧
    (∀ a : Nat, (loadImage p image).dmem.read a = if p.dmemInit = .image then image.getD a 0 else 0) ∧
    (loadImage p image).params = { p with imageLen := image.length } ∧
    (loadImage p image).runStatus = .running

/-- 70 R182(d): a file of more than MEM_WORDS lines is refused as a parse error, whatever its lines hold. -/
def Obligations.OverlongFileIsRefused : Prop :=
  ∀ (p : Params) (lines : List (List Char)), p.memWords < lines.length →
    ∃ address, address ≤ p.memWords ∧ loadFile p lines = .error (.parseError address)

/-- 70 R182(b), (c), (e): in a file that loads, every line is an integer of the range, and instruction memory holds its
value modulo 2^32 at the line's number. -/
def Obligations.LoadedLineIsValueModuloTwoToThe32 : Prop :=
  ∀ (p : Params) (lines : List (List Char)) (s : State), loadFile p lines = .ok s →
    lines.length ≤ p.memWords ∧ s.params.imageLen = lines.length ∧
    ∀ (n : Nat) (line : List Char), lines[n]? = some line →
      ∃ v : Int, lineValue line = some v ∧ -(2 ^ 31) ≤ v ∧ v ≤ 2 ^ 32 - 1 ∧ s.imem.read n = BitVec.ofInt 32 v

/-- 70 R182(c): "So `-1` and `4294967295` both give 0xFFFFFFFF", the ends of the range, and lines that are refused. -/
def Obligations.SampleLinesLoad : Prop :=
  (lineValue ['-', '1']).bind wordOfValue = some 0xFFFFFFFF ∧
  (lineValue ['4', '2', '9', '4', '9', '6', '7', '2', '9', '5']).bind wordOfValue = some 0xFFFFFFFF ∧
  (lineValue ['4', '2', '9', '4', '9', '6', '7', '2', '9', '6']).bind wordOfValue = none ∧
  (lineValue ['-', '2', '1', '4', '7', '4', '8', '3', '6', '4', '8']).bind wordOfValue = some 0x80000000 ∧
  (lineValue ['-', '2', '1', '4', '7', '4', '8', '3', '6', '4', '9']).bind wordOfValue = none ∧
  lineValue [] = none ∧ lineValue ['-'] = none ∧ lineValue ['+', '1'] = none ∧ lineValue ['1', ' '] = none

/-! ## Memories and addresses -/

/-- The model's canonical form (log entry 3): two canonical memories that read alike at every address are equal data. -/
def Obligations.CanonicalMemoriesAreEqualWhenReadsAgree : Prop :=
  ∀ m n : Memory, m.wf = true → n.wf = true → (∀ a : Nat, m.read a = n.read a) → m = n

/-- 20 R31 with 92 D1: for every MEM_WORDS the spec admits, an address is valid exactly when it is, unsigned, below
MEM_WORDS. -/
def Obligations.AddressValidityIsAnUnsignedRange : Prop :=
  ∀ (p : Params) (a : Word), p.valid → (addressValid p a = true ↔ a.toNat < p.memWords)

/-! ## Each instruction, stage by stage -/

/-- 42 R120: add in its three stages; every field not named keeps its value. -/
def Obligations.AddRunsItsThreeStages : Prop :=
  ∀ (a b : Reg) (d : BitVec 16) (s : State),
    (InStage .execute (.add a b d) s →
      exec (.add a b d) s = .next { s with
        exmem := {
          instr := encode (.add a b d)
          branchTarget := s.idex.pcPlus1 + s.idex.offset
          eq := forward s a s.idex.valA == forward s b s.idex.valB
          aluResult := forward s a s.idex.valA + forward s b s.idex.valB
          valB := forward s b s.idex.valB } }) ∧
    (InStage .memory (.add a b d) s →
      exec (.add a b d) s = .next { s with memwb := ⟨encode (.add a b d), s.exmem.aluResult⟩ }) ∧
    (InStage .writeback (.add a b d) s → d.toNat ≤ 7 →
      exec (.add a b d) s = .next { s with
        reg := s.reg.write (d.setWidth 3) s.memwb.writeData
        wbend := ⟨encode (.add a b d), s.memwb.writeData⟩ }) ∧
    (InStage .writeback (.add a b d) s → 7 < d.toNat →
      exec (.add a b d) s = .fault (.reservedDestFault d s.cycles))

/-- 42 R121: nor in its three stages. -/
def Obligations.NorRunsItsThreeStages : Prop :=
  ∀ (a b : Reg) (d : BitVec 16) (s : State),
    (InStage .execute (.nor a b d) s →
      exec (.nor a b d) s = .next { s with
        exmem := {
          instr := encode (.nor a b d)
          branchTarget := s.idex.pcPlus1 + s.idex.offset
          eq := forward s a s.idex.valA == forward s b s.idex.valB
          aluResult := ~~~(forward s a s.idex.valA ||| forward s b s.idex.valB)
          valB := forward s b s.idex.valB } }) ∧
    (InStage .memory (.nor a b d) s →
      exec (.nor a b d) s = .next { s with memwb := ⟨encode (.nor a b d), s.exmem.aluResult⟩ }) ∧
    (InStage .writeback (.nor a b d) s → d.toNat ≤ 7 →
      exec (.nor a b d) s = .next { s with
        reg := s.reg.write (d.setWidth 3) s.memwb.writeData
        wbend := ⟨encode (.nor a b d), s.memwb.writeData⟩ }) ∧
    (InStage .writeback (.nor a b d) s → 7 < d.toNat →
      exec (.nor a b d) s = .fault (.reservedDestFault d s.cycles))

/-- 30 R55: the reserved forms, add and nor with field2 above 7, are exactly the ill-formed instructions, and exactly
those whose writeback raises ReservedDestFault; no other stage of any instruction raises it. -/
def Obligations.IllFormedExactlyWhenDestinationFaults : Prop :=
  ∀ (i : Instr) (s : State),
    (InStage .writeback i s →
      (i.wellFormed = false ↔ exec i s = .fault (.reservedDestFault (field2 (encode i)) s.cycles))) ∧
    (s.stage ≠ .writeback → ∀ (f : BitVec 16) (c : Nat), exec i s ≠ .fault (.reservedDestFault f c))

/-- 43 R130, 20 R36: lw in its three stages, with its range fault. -/
def Obligations.LwRunsItsThreeStages : Prop :=
  ∀ (a b : Reg) (o : BitVec 16) (s : State),
    (InStage .execute (.lw a b o) s →
      exec (.lw a b o) s = .next { s with
        exmem := {
          instr := encode (.lw a b o)
          branchTarget := s.idex.pcPlus1 + s.idex.offset
          eq := forward s a s.idex.valA == forward s b s.idex.valB
          aluResult := forward s a s.idex.valA + s.idex.offset
          valB := forward s b s.idex.valB } }) ∧
    (InStage .memory (.lw a b o) s → 0 ≤ s.exmem.aluResult.toInt → s.exmem.aluResult.toInt < s.params.memWords →
      exec (.lw a b o) s = .next { s with
        memwb := ⟨encode (.lw a b o), s.dmem.read s.exmem.aluResult.toNat⟩ }) ∧
    (InStage .memory (.lw a b o) s → s.exmem.aluResult.toInt < 0 ∨ s.params.memWords ≤ s.exmem.aluResult.toInt →
      exec (.lw a b o) s = .fault (.dataAddressFault s.exmem.aluResult s.cycles)) ∧
    (InStage .writeback (.lw a b o) s →
      exec (.lw a b o) s = .next { s with
        reg := s.reg.write b s.memwb.writeData
        wbend := ⟨encode (.lw a b o), s.memwb.writeData⟩ })

/-- 43 R131, 20 R36: sw in its three stages, with its range fault; MEM/WB `writeData` keeps its value (92 D11). -/
def Obligations.SwRunsItsThreeStages : Prop :=
  ∀ (a b : Reg) (o : BitVec 16) (s : State),
    (InStage .execute (.sw a b o) s →
      exec (.sw a b o) s = .next { s with
        exmem := {
          instr := encode (.sw a b o)
          branchTarget := s.idex.pcPlus1 + s.idex.offset
          eq := forward s a s.idex.valA == forward s b s.idex.valB
          aluResult := forward s a s.idex.valA + s.idex.offset
          valB := forward s b s.idex.valB } }) ∧
    (InStage .memory (.sw a b o) s → 0 ≤ s.exmem.aluResult.toInt → s.exmem.aluResult.toInt < s.params.memWords →
      exec (.sw a b o) s = .next { s with
        memwb := ⟨encode (.sw a b o), s.memwb.writeData⟩
        dmem := s.dmem.write s.exmem.aluResult.toNat s.exmem.valB }) ∧
    (InStage .memory (.sw a b o) s → s.exmem.aluResult.toInt < 0 ∨ s.params.memWords ≤ s.exmem.aluResult.toInt →
      exec (.sw a b o) s = .fault (.dataAddressFault s.exmem.aluResult s.cycles)) ∧
    (InStage .writeback (.sw a b o) s →
      exec (.sw a b o) s = .next { s with wbend := ⟨encode (.sw a b o), s.memwb.writeData⟩ })

/-- 44 R140, 40 R79: beq in its three stages: the comparison, the redirect with its three squashed words when taken,
nothing but the passage when not. -/
def Obligations.BeqRunsItsThreeStages : Prop :=
  ∀ (a b : Reg) (o : BitVec 16) (s : State),
    (InStage .execute (.beq a b o) s →
      exec (.beq a b o) s = .next { s with
        exmem := {
          instr := encode (.beq a b o)
          branchTarget := s.idex.pcPlus1 + s.idex.offset
          eq := forward s a s.idex.valA == forward s b s.idex.valB
          aluResult := forward s a s.idex.valA - forward s b s.idex.valB
          valB := forward s b s.idex.valB } }) ∧
    (InStage .memory (.beq a b o) s → s.exmem.eq = true →
      exec (.beq a b o) s = .next { s with
        pc := s.exmem.branchTarget
        ifid := { s.ifid with instr := noopWord }
        idex := { s.idex with instr := noopWord }
        exmem := { s.exmem with instr := noopWord }
        memwb := ⟨encode (.beq a b o), s.memwb.writeData⟩ }) ∧
    (InStage .memory (.beq a b o) s → s.exmem.eq = false →
      exec (.beq a b o) s = .next { s with memwb := ⟨encode (.beq a b o), s.memwb.writeData⟩ }) ∧
    (InStage .writeback (.beq a b o) s →
      exec (.beq a b o) s = .next { s with wbend := ⟨encode (.beq a b o), s.memwb.writeData⟩ })

/-- 44 R141: jalr in its three stages: no ALU result, no redirect, no register; in writeback nothing or
UnimplementedFault, by JALR_MODE. -/
def Obligations.JalrRunsItsThreeStages : Prop :=
  ∀ (a b : Reg) (u : BitVec 16) (s : State),
    (InStage .execute (.jalr a b u) s →
      exec (.jalr a b u) s = .next { s with
        exmem := {
          instr := encode (.jalr a b u)
          branchTarget := s.idex.pcPlus1 + s.idex.offset
          eq := forward s a s.idex.valA == forward s b s.idex.valB
          aluResult := s.exmem.aluResult
          valB := forward s b s.idex.valB } }) ∧
    (InStage .memory (.jalr a b u) s →
      exec (.jalr a b u) s = .next { s with memwb := ⟨encode (.jalr a b u), s.exmem.aluResult⟩ }) ∧
    (InStage .writeback (.jalr a b u) s → s.params.jalrMode = .noop →
      exec (.jalr a b u) s = .next { s with wbend := ⟨encode (.jalr a b u), s.memwb.writeData⟩ }) ∧
    (InStage .writeback (.jalr a b u) s → s.params.jalrMode = .faultAtWriteback →
      exec (.jalr a b u) s = .fault (.unimplementedFault (encode (.jalr a b u)) s.cycles))

/-- 45 R150, 41 R110: halt drains through Execute and Memory like any word, into MEM/WB, where the core is halted and a
step leaves the state as it is. -/
def Obligations.HaltDrainsAndThenStops : Prop :=
  ∀ (u : BitVec 22) (s : State),
    (InStage .execute (.halt u) s →
      exec (.halt u) s = .next { s with
        exmem := {
          instr := encode (.halt u)
          branchTarget := s.idex.pcPlus1 + s.idex.offset
          eq := operandA s == operandB s
          aluResult := s.exmem.aluResult
          valB := operandB s } }) ∧
    (InStage .memory (.halt u) s →
      exec (.halt u) s = .next { s with memwb := ⟨encode (.halt u), s.exmem.aluResult⟩ }) ∧
    (stageWord .writeback s = encode (.halt u) →
      step s = .next s ∧ s.runStatus = .halted ∧ exec (.halt u) (s.setStage .writeback) = .next (s.setStage .writeback))

/-- 45 R151: noop in its three stages: it passes through and writes nothing. -/
def Obligations.NoopRunsItsThreeStages : Prop :=
  ∀ (u : BitVec 22) (s : State),
    (InStage .execute (.noop u) s →
      exec (.noop u) s = .next { s with
        exmem := {
          instr := encode (.noop u)
          branchTarget := s.idex.pcPlus1 + s.idex.offset
          eq := operandA s == operandB s
          aluResult := s.exmem.aluResult
          valB := operandB s } }) ∧
    (InStage .memory (.noop u) s →
      exec (.noop u) s = .next { s with memwb := ⟨encode (.noop u), s.exmem.aluResult⟩ }) ∧
    (InStage .writeback (.noop u) s →
      exec (.noop u) s = .next { s with wbend := ⟨encode (.noop u), s.memwb.writeData⟩ })

/-- 45 R152: what the pipeline does with an ILLEGAL word, stage by stage. -/
def Obligations.IllegalWordHasNoEffectOrFaults : Prop :=
  ∀ (k : Stage) (s : State), opname (stageWord k s) = .illegal →
    (k = .execute → ∃ t, runStage k s = .next t ∧ t.exmem.instr = s.idex.instr ∧
      t.exmem.aluResult = s.exmem.aluResult ∧ t.reg = s.reg ∧ t.dmem = s.dmem ∧ t.pc = s.pc) ∧
    (k = .memory → ∃ t, runStage k s = .next t ∧ t.memwb = ⟨s.exmem.instr, s.exmem.aluResult⟩ ∧
      t.reg = s.reg ∧ t.dmem = s.dmem ∧ t.pc = s.pc) ∧
    (k = .writeback → s.params.illegalOpMode = .noop → ∃ t, runStage k s = .next t ∧
      t.wbend = ⟨s.memwb.instr, s.memwb.writeData⟩ ∧ t.reg = s.reg ∧ t.dmem = s.dmem ∧ t.pc = s.pc) ∧
    (k = .writeback → s.params.illegalOpMode = .faultAtWriteback →
      runStage k s = .fault (.illegalOpcodeFault s.memwb.instr s.cycles))

/-- The frame of all eight instructions in all three stages (41 R92, R102): when `exec` answers a next state, every
register but the destination of an add, nor or lw in writeback, every word of data memory but the one an sw in memory
stores to, and every other field but the latch of the stage keep their values; only a taken beq in memory touches the
pc and the three younger words, and of those only `instr`. -/
def Obligations.InstructionFrame : Prop :=
  ∀ (i : Instr) (s t : State), s.dmem.wf = true → exec i s = .next t →
    t.imem = s.imem ∧ t.cycles = s.cycles ∧ t.params = s.params ∧ t.stage = s.stage ∧
    (∀ r : Reg, writesReg i s ≠ some r → t.reg.read r = s.reg.read r) ∧
    (∀ a : Nat, storesTo i s ≠ some a → t.dmem.read a = s.dmem.read a) ∧
    (redirects i s = false → t.pc = s.pc ∧ t.ifid = s.ifid ∧ t.idex = s.idex ∧
      (s.stage ≠ .execute → t.exmem = s.exmem)) ∧
    (redirects i s = true →
      t.ifid = { s.ifid with instr := t.ifid.instr } ∧ t.idex = { s.idex with instr := t.idex.instr } ∧
      t.exmem = { s.exmem with instr := t.exmem.instr }) ∧
    (s.stage ≠ .memory → t.memwb = s.memwb) ∧ (s.stage ≠ .writeback → t.wbend = s.wbend)

/-! ## The step -/

/-- 41 R91: the step runs, in the writeback, memory and execute stages, the instruction that the stage's word decodes to
(an ILLEGAL word by 45 R152), with the fetch after them, and puts their results together, the stall and then the
squash overriding. -/
def Obligations.StepRunsTheDecodedInstructions : Prop :=
  (∀ (k : Stage) (s : State) (i : Instr), decode (stageWord k s) = .ok i → runStage k s = exec i (s.setStage k)) ∧
  (∀ (k : Stage) (s : State) (e : DecodeError),
    decode (stageWord k s) = .error e → runStage k s = runIllegal (s.setStage k)) ∧
  (∀ s : State, opname s.memwb.instr ≠ .halt →
    step s =
      andThen (runStage .writeback s) fun w =>
      andThen (runStage .memory s) fun m =>
      andThen (runStage .execute s) fun x =>
      andThen (fetchStage s) fun f =>
      .next (applySquash s m (applyStall s (assemble s w m x f))))

/-- 41 R110, 92 D23: a step leaves the state unchanged exactly when MEM/WB holds a halt. -/
def Obligations.StepKeepsStateExactlyWhenHalted : Prop :=
  ∀ s : State, opname s.memwb.instr = .halt ↔ step s = .next s

/-- 60 R161 to R163: a step faults exactly when the core is not halted and the table of 60 R162 gives a fault, and the
fault it answers is the writeback stage's, else the memory stage's, else the fetch's. -/
def Obligations.StepFaultsExactlyByTheTable : Prop :=
  ∀ (s : State) (f : Fault), step s = .fault f ↔
    opname s.memwb.instr ≠ .halt ∧
      (writebackFault s = some f ∨
        (writebackFault s = none ∧ (memoryFault s = some f ∨ (memoryFault s = none ∧ fetchFault s = some f))))

/-- 41 R91 with 60 R162: a step answers a next state wherever none of the fault conditions holds, and is never
refused. -/
def Obligations.StepAnswersWhereNothingIsRaised : Prop :=
  ∀ s : State,
    (writebackFault s = none → memoryFault s = none → fetchFault s = none → ∃ t, step s = .next t) ∧
    ∀ r : Refusal, step s ≠ .refused r

/-- 41 R97 with the ALU table of 41 R98, and the word a squash replaces (40 R79).  What the spec decided: the `aluResult`
that jalr, halt, noop and ILLEGAL words keep, and the fields kept under a squash (92 D11, log entry 7). -/
def Obligations.ExecuteStageLatches : Prop :=
  ∀ s t : State, opname s.memwb.instr ≠ .halt → step s = .next t →
    t.exmem.instr = (if squash s then noopWord else s.idex.instr) ∧
    t.exmem.branchTarget = s.idex.pcPlus1 + s.idex.offset ∧
    (t.exmem.eq = true ↔ operandA s = operandB s) ∧
    t.exmem.valB = operandB s ∧
    t.exmem.aluResult =
      (match opname s.idex.instr with
      | .add => operandA s + operandB s
      | .nor => ~~~(operandA s ||| operandB s)
      | .lw | .sw => operandA s + s.idex.offset
      | .beq => operandA s - operandB s
      | .jalr | .halt | .noop | .illegal => s.exmem.aluResult)

/-- 41 R99: the memory stage, by the opcode of the word in EX/MEM; a cycle in which it goes on had a valid address. -/
def Obligations.MemoryStageByOpcode : Prop :=
  ∀ s t : State, opname s.memwb.instr ≠ .halt → step s = .next t →
    t.memwb.instr = s.exmem.instr ∧
    (opname s.exmem.instr = .lw →
      t.memwb.writeData = s.dmem.read s.exmem.aluResult.toNat ∧ t.dmem = s.dmem ∧
      addressValid s.params s.exmem.aluResult = true) ∧
    (opname s.exmem.instr = .sw →
      t.memwb.writeData = s.memwb.writeData ∧ t.dmem = s.dmem.write s.exmem.aluResult.toNat s.exmem.valB ∧
      addressValid s.params s.exmem.aluResult = true) ∧
    (opname s.exmem.instr = .beq → t.memwb.writeData = s.memwb.writeData ∧ t.dmem = s.dmem) ∧
    (opname s.exmem.instr ≠ .lw → opname s.exmem.instr ≠ .sw → opname s.exmem.instr ≠ .beq →
      t.memwb.writeData = s.exmem.aluResult ∧ t.dmem = s.dmem)

/-- 41 R100: the writeback stage, by the opcode of the word in MEM/WB.  Its faults are the spec's own decisions: a
destination above 7 (92 D9, log entry 7), jalr and ILLEGAL words by their modes (92 D5 and D6, log entry 2); that a fault
is the step's outcome is log entry 4. -/
def Obligations.WritebackByOpcode : Prop :=
  ∀ s : State,
    (opname s.memwb.instr = .add ∨ opname s.memwb.instr = .nor →
      (7 < (field2 s.memwb.instr).toNat → step s = .fault (.reservedDestFault (field2 s.memwb.instr) s.cycles)) ∧
      ∀ t, step s = .next t → ∀ r : Reg,
        t.reg.read r = if r.toNat = (field2 s.memwb.instr).toNat then s.memwb.writeData else s.reg.read r) ∧
    (opname s.memwb.instr = .lw →
      ∀ t, step s = .next t → ∀ r : Reg,
        t.reg.read r = if r = field1 s.memwb.instr then s.memwb.writeData else s.reg.read r) ∧
    (opname s.memwb.instr = .jalr → s.params.jalrMode = .faultAtWriteback →
      step s = .fault (.unimplementedFault s.memwb.instr s.cycles)) ∧
    (opname s.memwb.instr = .illegal → s.params.illegalOpMode = .faultAtWriteback →
      step s = .fault (.illegalOpcodeFault s.memwb.instr s.cycles)) ∧
    (opname s.memwb.instr = .sw ∨ opname s.memwb.instr = .beq ∨ opname s.memwb.instr = .noop ∨
      (opname s.memwb.instr = .jalr ∧ s.params.jalrMode = .noop) ∨
      (opname s.memwb.instr = .illegal ∧ s.params.illegalOpMode = .noop) →
      ∀ t, step s = .next t → t.reg = s.reg)

/-- 41 R101: WB/END takes MEM/WB unchanged. -/
def Obligations.RetirementCopiesMemWb : Prop :=
  ∀ s t : State, opname s.memwb.instr ≠ .halt → step s = .next t →
    t.wbend.instr = s.memwb.instr ∧ t.wbend.writeData = s.memwb.writeData

/-- 41 R96: for every word in IF/ID, Decode latches it with both registers as they were at the start of the cycle and
the sign-extended offset; the word itself gives way to the bubble of a stall or squash (40 R72, R79). -/
def Obligations.DecodeStageReadsBothRegisters : Prop :=
  ∀ s t : State, opname s.memwb.instr ≠ .halt → step s = .next t →
    t.idex.pcPlus1 = s.ifid.pcPlus1 ∧
    t.idex.valA = s.reg.read (field0 s.ifid.instr) ∧
    t.idex.valB = s.reg.read (field1 s.ifid.instr) ∧
    t.idex.offset = (field2 s.ifid.instr).signExtend 32 ∧
    (stall s = false → squash s = false → t.idex.instr = s.ifid.instr) ∧
    (stall s = true ∨ squash s = true → t.idex.instr = noopWord)

/-- 41 R94: with neither stall nor squash the word at the pc is fetched and the pc advances, whatever is in flight;
with either, instruction memory is not read, so no fetch fault arises. -/
def Obligations.FetchAdvancesUnlessHeld : Prop :=
  ∀ s : State, opname s.memwb.instr ≠ .halt →
    (stall s = false → squash s = false → ∀ t, step s = .next t →
      t.ifid = ⟨s.imem.read s.pc.toNat, s.pc + 1⟩ ∧ t.pc = s.pc + 1) ∧
    (stall s = true → squash s = false → ∀ t, step s = .next t → t.ifid = s.ifid ∧ t.pc = s.pc) ∧
    (squash s = true → ∀ t, step s = .next t → t.ifid.instr = noopWord ∧ t.pc = s.exmem.branchTarget) ∧
    (stall s = true ∨ squash s = true → ∀ (a : Word) (c : Nat), step s ≠ .fault (.fetchAddressFault a c))

/-- 40 R71, R72: an lw in ID/EX whose destination is field0 or field1 of the word in IF/ID, with no taken branch, puts a
bubble behind the lw, holds IF/ID and the pc, and the next cycle does not stall again. -/
def Obligations.LoadUseStallsExactlyOneCycle : Prop :=
  ∀ s t : State, opname s.memwb.instr ≠ .halt → opname s.idex.instr = .lw →
    (field0 s.ifid.instr = field1 s.idex.instr ∨ field1 s.ifid.instr = field1 s.idex.instr) →
    ¬ (opname s.exmem.instr = .beq ∧ s.exmem.eq = true) → step s = .next t →
    t.idex.instr = noopWord ∧ t.ifid = s.ifid ∧ t.pc = s.pc ∧ t.exmem.instr = s.idex.instr ∧ stall t = false

/-- 40 R71: no other pair of words stalls. -/
def Obligations.OnlyLoadUseStalls : Prop :=
  ∀ s : State, stall s = true ↔
    opname s.idex.instr = .lw ∧
      (field0 s.ifid.instr = field1 s.idex.instr ∨ field1 s.ifid.instr = field1 s.idex.instr)

/-- 40 R78, R79: a beq in EX/MEM with the equality flag set sets the pc to its target, discards the three younger
words, and moves on to MEM/WB; data memory is untouched, and the register file changes only by the older word in
MEM/WB. -/
def Obligations.TakenBranchSquashesThree : Prop :=
  ∀ s t : State, opname s.memwb.instr ≠ .halt → opname s.exmem.instr = .beq → s.exmem.eq = true →
    step s = .next t →
    t.pc = s.exmem.branchTarget ∧ t.ifid.instr = noopWord ∧ t.idex.instr = noopWord ∧ t.exmem.instr = noopWord ∧
    t.memwb.instr = s.exmem.instr ∧ t.wbend.instr = s.memwb.instr ∧ t.dmem = s.dmem ∧
    (∀ r : Reg, produces s.memwb.instr r = false → t.reg.read r = s.reg.read r)

/-- 40 R80 (the spec's decision D10): when a load-use stall and a taken branch meet, the squash wins. -/
def Obligations.SquashOverridesStall : Prop :=
  ∀ s t : State, opname s.memwb.instr ≠ .halt → stall s = true → opname s.exmem.instr = .beq → s.exmem.eq = true →
    step s = .next t →
    t.pc = s.exmem.branchTarget ∧ t.ifid.instr = noopWord ∧ t.idex.instr = noopWord ∧ t.exmem.instr = noopWord ∧
    stall t = false ∧ squash t = false

/-- 40 R73 to R75: each operand is the value of the nearest of EX/MEM, MEM/WB and WB/END whose word produces its
register, else the value decode read; add and nor produce the whole field2, lw field1, no other word anything. -/
def Obligations.ForwardingNearestProducerWins : Prop :=
  (∀ (w : Word) (r : Reg), produces w r = true ↔
    ((opname w = .add ∨ opname w = .nor) ∧ (field2 w).toNat = r.toNat) ∨ (opname w = .lw ∧ field1 w = r)) ∧
  (∀ s : State,
    operandA s =
      (if produces s.exmem.instr (field0 s.idex.instr) then s.exmem.aluResult
      else if produces s.memwb.instr (field0 s.idex.instr) then s.memwb.writeData
      else if produces s.wbend.instr (field0 s.idex.instr) then s.wbend.writeData
      else s.idex.valA) ∧
    operandB s =
      (if produces s.exmem.instr (field1 s.idex.instr) then s.exmem.aluResult
      else if produces s.memwb.instr (field1 s.idex.instr) then s.memwb.writeData
      else if produces s.wbend.instr (field1 s.idex.instr) then s.wbend.writeData
      else s.idex.valB))

/-- 10 R12: any register may be written, r0 like the others, and holds what was last written to it: after an add, nor or
lw in MEM/WB retires, its destination, whichever it is, reads the written word, and so does a Decode of any word that
names it, in field0 or in field1; every register that the word in MEM/WB does not write keeps its value. -/
def Obligations.AnyRegisterMayBeWritten : Prop :=
  ∀ (s t : State) (r : Reg), step s = .next t →
    (WritesBack s.memwb.instr r →
      t.reg.read r = s.memwb.writeData ∧
      ∀ w pcPlus1 : Word,
        (field0 w = r → (decodeStage (t.setIfid ⟨w, pcPlus1⟩)).idex.valA = s.memwb.writeData) ∧
        (field1 w = r → (decodeStage (t.setIfid ⟨w, pcPlus1⟩)).idex.valB = s.memwb.writeData)) ∧
    (¬ WritesBack s.memwb.instr r → t.reg.read r = s.reg.read r)

/-- 41 R93, 10 R14, 20 R41: a cycle that runs adds 1 to the counter and never changes instruction memory or the
parameters. -/
def Obligations.CycleCountsAndKeepsCode : Prop :=
  ∀ s t : State, opname s.memwb.instr ≠ .halt → step s = .next t →
    t.cycles = s.cycles + 1 ∧ t.imem = s.imem ∧ t.params = s.params ∧ t.stage = s.stage

/-- 20 R38: an lw in the memory stage right behind an sw to the same address brings back the stored word. -/
def Obligations.StoreThenLoadReturnsStoredWord : Prop :=
  ∀ s t u : State, s.dmem.wf = true → opname s.memwb.instr ≠ .halt → opname s.exmem.instr = .sw →
    step s = .next t → opname t.exmem.instr = .lw → t.exmem.aluResult = s.exmem.aluResult → step t = .next u →
    u.memwb.writeData = s.exmem.valB ∧ u.dmem = t.dmem

/-- The load of one word (log entry 6): from any state whose pc is in range, the word placed at the fetch address is the
one the next step fetches, and the step after it, where its own fetch is in range, leaves it decoded in ID/EX just as
`withFetchWord` places it, with only bubbles ahead. -/
def Obligations.PlacedWordIsFetchedNext : Prop :=
  ∀ (s : State) (w : Nat), s.imem.wf = true → addressValid s.params s.pc = true →
    ∃ t, step (placeAtFetch s (BitVec.ofNat 32 w)) = .next t ∧ t.ifid.instr = BitVec.ofNat 32 w ∧
      t.ifid.pcPlus1 = s.pc + 1 ∧ t.pc = s.pc + 1 ∧ t.reg = s.reg ∧ t.dmem = s.dmem ∧
      (addressValid s.params (s.pc + 1) = true →
        ∃ u, step t = .next u ∧ u.idex = (s.withFetchWord 32 w).idex ∧ u.imem = (s.withFetchWord 32 w).imem ∧
          u.reg = s.reg ∧ u.dmem = s.dmem ∧
          u.exmem.instr = noopWord ∧ u.memwb.instr = noopWord ∧ u.wbend.instr = noopWord)

/-- A placed word runs at the very next step (log entry 6): from any state whose pc is in range, `withFetchWord` puts the
word at the old pc and leaves a state that stands, once everything in flight has completed, for one instruction of sequential
execution from there; its next step runs the word's Execute (41 R97, R98) on the registers' own values, and answers where
the address behind the word is in range too. -/
def Obligations.PlacedWordRunsNext : Prop :=
  ∀ (s : State) (w : Nat), s.imem.wf = true → addressValid s.params s.pc = true →
    (s.withFetchWord 32 w).imem.read s.pc.toNat = BitVec.ofNat 32 w ∧
    (∀ i : Instr, decode (BitVec.ofNat 32 w) = .ok i →
      runStage .execute (s.withFetchWord 32 w) = exec i ((s.withFetchWord 32 w).setStage .execute)) ∧
    operandA (s.withFetchWord 32 w) = s.reg.read (field0 (BitVec.ofNat 32 w)) ∧
    operandB (s.withFetchWord 32 w) = s.reg.read (field1 (BitVec.ofNat 32 w)) ∧
    drain (s.withFetchWord 32 w) =
      sequentialStep s.params (s.withFetchWord 32 w).imem ⟨some s.pc, s.reg, s.dmem⟩ ∧
    (addressValid s.params (s.pc + 1) = true →
      ∃ t, step (s.withFetchWord 32 w) = .next t ∧ t.exmem.instr = BitVec.ofNat 32 w ∧
        t.exmem.branchTarget = s.pc + 1 + offset (BitVec.ofNat 32 w) ∧
        t.exmem.aluResult = aluTable (s.withFetchWord 32 w) ∧
        t.exmem.valB = s.reg.read (field1 (BitVec.ofNat 32 w)) ∧ t.reg = s.reg ∧ t.dmem = s.dmem)

/-! ## Invariants -/

/-- Log entry 3: both memories stay canonical and within MEM_WORDS over every step. -/
def Obligations.StepKeepsMemoriesCanonical : Prop :=
  ∀ s t : State, MemoriesOk s → step s = .next t → MemoriesOk t

/-- The loaded state has canonical memories within MEM_WORDS, for every image that fits. -/
def Obligations.LoadedStateHasCanonicalMemories : Prop :=
  ∀ (p : Params) (image : List Word), image.length ≤ p.memWords → MemoriesOk (loadImage p image)

/-- 40 R82, R83: what the interlock guarantees is kept by every step. -/
def Obligations.StepKeepsThePipelineInvariant : Prop :=
  ∀ s t : State, PipelineInv s → step s = .next t → PipelineInv t

/-- 10 R26: the state after reset meets the pipeline's invariant, whatever the image. -/
def Obligations.LoadedStateMeetsThePipelineInvariant : Prop :=
  ∀ (p : Params) (image : List Word), PipelineInv (loadImage p image)

/-- 40 R84: the forwarded operands of an instruction in ID/EX are the values its registers have once every older
instruction has written back. -/
def Obligations.ForwardedOperandsAreProgramOrderValues : Prop :=
  ∀ s : State, PipelineInv s → s.idex.instr ≠ noopWord →
    operandA s = olderValue s (field0 s.idex.instr) ∧ operandB s = olderValue s (field1 s.idex.instr)

/-! ## The pipeline against sequential execution -/

/-- 40 R84, 70 R190: every cycle leaves the architectural state the pipeline stands for as it is, or advances it by
exactly one instruction of sequential execution; where that instruction, or one in flight, faults, so does the
architectural state. -/
def Obligations.CycleRefinesSequentialExecution : Prop :=
  ∀ s t : State, PipelineInv s → step s = .next t →
    drain t = drain s ∨ drain t = (drain s).bind (sequentialStep s.params s.imem)

/-- 41 R110: a halted core stands for its own registers and data memory: nothing in flight behind the halt counts. -/
def Obligations.HaltedCoreIsFullyDrained : Prop :=
  ∀ s : State, opname s.memwb.instr = .halt → drain s = some ⟨none, s.reg, s.dmem⟩

/-- 70 R190: "every run that halts leaves the registers and data memory that sequential execution of the same
instructions gives", for every image and every choice of the parameters. -/
def Obligations.HaltedRunAgreesWithSequentialExecution : Prop :=
  ∀ (p : Params) (image : List Word) (n : Nat) (s : State),
    runCycles n (loadImage p image) = .next s → s.runStatus = .halted →
    ∃ m : Nat,
      sequentialRun (loadImage p image).params (loadImage p image).imem m
        ⟨some 0, (loadImage p image).reg, (loadImage p image).dmem⟩ = some ⟨none, s.reg, s.dmem⟩
end

