-- ==== Sys2Proof/Laws/Decode.lean ====
section
/-! SUPPORT. The fields of an encoded word (30 R51, R60): each is the operand it was made from. -/

namespace Sys2Proof

/-- Bits 31:22 of a word. -/
theorem op_eq_field (w : Word) : op w = (w.extractLsb' 22 10).toInt := by
  rw [op, BitVec.toInt_eq_toNat_cond, BitVec.toInt_eq_toNat_cond]
  simp only [BitVec.extractLsb'_toNat, Nat.shiftRight_eq_div_pow]
  split <;> split <;> omega

@[simp] theorem op_enc (o : BitVec 10) (a b : Reg) (c : BitVec 16) : op (enc o a b c) = o.toInt := by
  rw [op_eq_field]
  congr 1
  simp only [enc]
  ext i h
  interval_cases i <;> simp

@[simp] theorem opname_enc (o : BitVec 10) (a b : Reg) (c : BitVec 16) : opname (enc o a b c) = opNameOf o.toInt := by
  simp [opname]

@[simp] theorem field0_enc (o : BitVec 10) (a b : Reg) (c : BitVec 16) : field0 (enc o a b c) = a := by
  simp only [field0, enc]
  ext i h
  interval_cases i <;> simp

@[simp] theorem field1_enc (o : BitVec 10) (a b : Reg) (c : BitVec 16) : field1 (enc o a b c) = b := by
  simp only [field1, enc]
  ext i h
  interval_cases i <;> simp

@[simp] theorem field2_enc (o : BitVec 10) (a b : Reg) (c : BitVec 16) : field2 (enc o a b c) = c := by
  simp only [field2, enc]
  ext i h
  interval_cases i <;> simp

/-- The 22 unused bits of a halt or a noop are kept. -/
theorem low22_enc (o : BitVec 10) (u : BitVec 22) :
    (enc o (u.extractLsb' 19 3) (u.extractLsb' 16 3) (u.extractLsb' 0 16)).extractLsb' 0 22 = u := by
  simp only [enc]
  ext i h
  interval_cases i <;> simp [BitVec.getLsbD_eq_getElem]

/-- A word is its opcode bits and its three fields. -/
theorem enc_fields (w : Word) : enc (w.extractLsb' 22 10) (field0 w) (field1 w) (field2 w) = w := by
  simp only [field0, field1, field2, enc]
  ext i h
  interval_cases i <;> simp [BitVec.getLsbD_eq_getElem]

/-- The bubble's word is a noop, and no producer. -/
theorem opname_noopWord : opname noopWord = .noop := by decide

end Sys2Proof
end

