-- ==== Sys2Proof/Laws/Memory.lean ====
section
/-! SUPPORT. The laws of a memory: every operation keeps the canonical form, and a read after a write gives the word
written at its address and the old word elsewhere (20 R34, R38). -/

namespace Sys2Proof.Machine

/-! ## Each operation on a memory with a first cell -/

theorem memory_read_cell (c : Nat × Word) (rest : Memory) (a : Nat) :
    Memory.read (c :: rest) a = if a < c.1 then unlistedWord else if a = c.1 then c.2 else Memory.read rest a := rfl

theorem memory_write_cell (c : Nat × Word) (rest : Memory) (a : Nat) (v : Word) :
    Memory.write (c :: rest) a v =
      if a < c.1 then Memory.cons a v (c :: rest) else if a = c.1 then Memory.cons a v rest
      else c :: Memory.write rest a v := rfl

theorem memory_wfFrom_cell {lo : Nat} {c : Nat × Word} {rest : Memory} :
    Memory.wfFrom lo (c :: rest) = true ↔ lo ≤ c.1 ∧ c.2 ≠ unlistedWord ∧ Memory.wfFrom (c.1 + 1) rest = true := by
  show (decide (lo ≤ c.1) && decide (c.2 ≠ unlistedWord) && Memory.wfFrom (c.1 + 1) rest) = true ↔ _
  rw [Bool.and_eq_true, Bool.and_eq_true, decide_eq_true_eq, decide_eq_true_eq, and_assoc]

theorem memory_within_cell {n : Nat} {c : Nat × Word} {rest : Memory} :
    Memory.within (c :: rest) n = true ↔ c.1 < n ∧ Memory.within rest n = true := by
  show (decide (c.1 < n) && Memory.within rest n) = true ↔ _
  rw [Bool.and_eq_true, decide_eq_true_eq]

/-- A cell in front: nothing where it holds what an unlisted word holds. -/
theorem memory_cons_cases (a : Nat) (v : Word) (m : Memory) :
    (v = unlistedWord ∧ Memory.cons a v m = m) ∨ (v ≠ unlistedWord ∧ Memory.cons a v m = (a, v) :: m) := by
  by_cases h : v = unlistedWord
  · exact .inl ⟨h, if_pos h⟩
  · exact .inr ⟨h, if_neg h⟩

/-! ## The canonical form -/

theorem memory_wfFrom_weaken {lo lo' : Nat} {m : Memory} (h : Memory.wfFrom lo m = true) (le : lo' ≤ lo) :
    Memory.wfFrom lo' m = true := by
  cases m with
  | nil => rfl
  | cons c rest =>
    rw [memory_wfFrom_cell] at h ⊢
    exact ⟨Nat.le_trans le h.1, h.2⟩

/-- Below every address listed, a memory reads as unlisted. -/
theorem memory_read_below {lo a : Nat} {m : Memory} (h : Memory.wfFrom lo m = true) (lt : a < lo) :
    m.read a = unlistedWord := by
  cases m with
  | nil => rfl
  | cons c rest =>
    rw [memory_wfFrom_cell] at h
    rw [memory_read_cell, if_pos (Nat.lt_of_lt_of_le lt h.1)]

theorem memory_wfFrom_cons {lo a : Nat} {m : Memory} (v : Word) (h : Memory.wfFrom (a + 1) m = true) (le : lo ≤ a) :
    Memory.wfFrom lo (Memory.cons a v m) = true := by
  rcases memory_cons_cases a v m with ⟨_, e⟩ | ⟨ne, e⟩
  · rw [e]; exact memory_wfFrom_weaken h (Nat.le_succ_of_le le)
  · rw [e, memory_wfFrom_cell]; exact ⟨le, ne, h⟩

theorem memory_read_cons {a : Nat} {m : Memory} (v : Word) (b : Nat) (h : Memory.wfFrom (a + 1) m = true) :
    (Memory.cons a v m).read b = if b < a then unlistedWord else if b = a then v else m.read b := by
  rcases memory_cons_cases a v m with ⟨rfl, e⟩ | ⟨_, e⟩
  · rw [e]
    split
    · exact memory_read_below h (by omega)
    · split
      · exact memory_read_below h (by omega)
      · rfl
  · rw [e, memory_read_cell]

theorem memory_wfFrom_write {lo a : Nat} {m : Memory} (v : Word) (h : Memory.wfFrom lo m = true) (le : lo ≤ a) :
    Memory.wfFrom lo (m.write a v) = true := by
  induction m generalizing lo with
  | nil => exact memory_wfFrom_cons v rfl le
  | cons c rest ih =>
    have hc := memory_wfFrom_cell.mp h
    rw [memory_write_cell]
    split
    · exact memory_wfFrom_cons v (memory_wfFrom_cell.mpr ⟨by omega, hc.2⟩) le
    · split
      · next e => exact memory_wfFrom_cons v (e ▸ hc.2.2) le
      · exact memory_wfFrom_cell.mpr ⟨hc.1, hc.2.1, ih hc.2.2 (by omega)⟩

/-- A write keeps the canonical form. -/
theorem memory_wf_write {m : Memory} (a : Nat) (v : Word) (h : m.wf = true) : (m.write a v).wf = true :=
  memory_wfFrom_write v h (Nat.zero_le a)

theorem memory_read_write_from {lo : Nat} {m : Memory} (a : Nat) (v : Word) (b : Nat) (h : Memory.wfFrom lo m = true) :
    (m.write a v).read b = if b = a then v else m.read b := by
  induction m generalizing lo with
  | nil =>
    rw [Memory.write, memory_read_cons v b rfl]
    change _ = if b = a then v else unlistedWord
    split_ifs <;> first | rfl | omega
  | cons c rest ih =>
    have hc := memory_wfFrom_cell.mp h
    rw [memory_write_cell]
    split
    · rw [memory_read_cons v b (memory_wfFrom_cell.mpr ⟨by omega, hc.2⟩), memory_read_cell]
      split_ifs <;> first | rfl | omega
    · split
      · next e =>
        rw [memory_read_cons v b (e ▸ hc.2.2), memory_read_cell]
        split_ifs <;> first | rfl | omega
      · rw [memory_read_cell, memory_read_cell, ih hc.2.2]
        split_ifs <;> first | rfl | omega

/-- A read after a write gives the word written at its address, and what it gave before elsewhere. -/
theorem memory_read_write {m : Memory} (a : Nat) (v : Word) (b : Nat) (h : m.wf = true) :
    (m.write a v).read b = if b = a then v else m.read b :=
  memory_read_write_from a v b h

/-! ## The words within `MEM_WORDS` -/

theorem memory_within_cons {m : Memory} {a n : Nat} (v : Word) (h : m.within n = true) (lt : a < n) :
    (Memory.cons a v m).within n = true := by
  rcases memory_cons_cases a v m with ⟨_, e⟩ | ⟨_, e⟩
  · rw [e]; exact h
  · rw [e, memory_within_cell]; exact ⟨lt, h⟩

/-- A write below `MEM_WORDS` lists nothing above it. -/
theorem memory_within_write {m : Memory} {a n : Nat} (v : Word) (h : m.within n = true) (lt : a < n) :
    (m.write a v).within n = true := by
  induction m with
  | nil => exact memory_within_cons v rfl lt
  | cons c rest ih =>
    have hc := memory_within_cell.mp h
    rw [memory_write_cell]
    split
    · exact memory_within_cons v h lt
    · split
      · exact memory_within_cons v hc.2 lt
      · exact memory_within_cell.mpr ⟨hc.1, ih hc.2⟩

/-! ## Loaded images and valid addresses -/

/-- The memory of an image is canonical. -/
theorem imageMemory_wfFrom (a : Nat) (image : List Word) : Memory.wfFrom a (imageMemory a image) = true := by
  induction image generalizing a with
  | nil => rfl
  | cons w rest ih => exact memory_wfFrom_cons w (ih (a + 1)) (Nat.le_refl a)

/-- 20 R31, as a proposition. -/
theorem addressValid_iff {p : Params} {a : Word} :
    addressValid p a = true ↔ 0 ≤ a.toInt ∧ a.toInt < (p.memWords : Int) := by
  rw [addressValid, Bool.and_eq_true, decide_eq_true_eq, decide_eq_true_eq]

/-- A valid address is a word index below `MEM_WORDS` (20 R31). -/
theorem addressValid_lt {p : Params} {a : Word} (h : addressValid p a = true) : a.toNat < p.memWords := by
  rw [addressValid_iff] at h
  have := BitVec.toInt_eq_toNat_cond a
  have := a.isLt
  split at * <;> omega

end Sys2Proof.Machine
end

