-- ==== Sys2Proof/Laws/PerInstr.lean ====
section
/-! SUPPORT. One fact of every instruction as syntax: its word carries its own opcode name, none of them ILLEGAL
(30 R53, R60). -/

namespace Sys2Proof.Laws.EncodedOpcode

/-- The word of `i` selects the opcode `i` is, which is not ILLEGAL. -/
def Statement (i : Instr) : Prop := opname (encode i) = i.opName ∧ i.opName ≠ .illegal

theorem add (a b : Reg) (d : BitVec 16) : Statement (.add a b d) :=
  ⟨(opname_enc _ a b d).trans rfl, nofun⟩

theorem nor (a b : Reg) (d : BitVec 16) : Statement (.nor a b d) :=
  ⟨(opname_enc _ a b d).trans rfl, nofun⟩

theorem lw (a b : Reg) (o : BitVec 16) : Statement (.lw a b o) :=
  ⟨(opname_enc _ a b o).trans rfl, nofun⟩

theorem sw (a b : Reg) (o : BitVec 16) : Statement (.sw a b o) :=
  ⟨(opname_enc _ a b o).trans rfl, nofun⟩

theorem beq (a b : Reg) (o : BitVec 16) : Statement (.beq a b o) :=
  ⟨(opname_enc _ a b o).trans rfl, nofun⟩

theorem jalr (a b : Reg) (u : BitVec 16) : Statement (.jalr a b u) :=
  ⟨(opname_enc _ a b u).trans rfl, nofun⟩

theorem halt (u : BitVec 22) : Statement (.halt u) :=
  ⟨(opname_enc _ _ _ _).trans rfl, nofun⟩

theorem noop (u : BitVec 22) : Statement (.noop u) :=
  ⟨(opname_enc _ _ _ _).trans rfl, nofun⟩

end Sys2Proof.Laws.EncodedOpcode
end

