-- ==== Sys2Proof/Laws/Registers.lean ====
section
/-! SUPPORT. Reading a register after a write (10 R11, R12). -/

namespace Sys2Proof.Machine

/-- Every register, r0 among them, reads what was last written to it, and a write leaves the others alone. -/
theorem regFile_read_write (rf : RegFile) (r q : Reg) (v : Word) :
    (rf.write r v).read q = if q = r then v else rf.read q := by
  unfold RegFile.read RegFile.write
  rw [Vector.getElem_set]
  by_cases h : q = r
  · simp [h]
  · have : ¬ r.toNat = q.toNat := fun e => h (BitVec.eq_of_toNat_eq e.symm)
    simp [h, this]

@[simp] theorem regFile_read_write_self (rf : RegFile) (r : Reg) (v : Word) : (rf.write r v).read r = v := by
  simp [regFile_read_write]

theorem regFile_read_write_ne (rf : RegFile) {r q : Reg} (v : Word) (h : q ≠ r) :
    (rf.write r v).read q = rf.read q := by
  simp [regFile_read_write, h]

/-- After reset every register reads 0 (10 R26). -/
theorem regFile_read_reset (r : Reg) : State.reset.reg.read r = 0 := by
  simp [RegFile.read, State.reset]

/-- Two register files that read alike are equal. -/
theorem regFile_ext {f g : RegFile} (h : ∀ r : Reg, f.read r = g.read r) : f = g := by
  apply Vector.ext
  intro i hi
  have := h (BitVec.ofNat 3 i)
  have e : (BitVec.ofNat 3 i).toNat = i := by simp; omega
  simpa [RegFile.read, e] using this

end Sys2Proof.Machine
end

