-- ==== Sys2Proof/Laws/State.lean ====
section
/-! SUPPORT. One lemma per field per update of the state, true by unfolding, for simp. -/

namespace Sys2Proof.Machine

@[simp] theorem setPc_pc (s : State) (v : Word) : (s.setPc v).pc = v := rfl
@[simp] theorem setPc_imem (s : State) (v : Word) : (s.setPc v).imem = s.imem := rfl
@[simp] theorem setPc_dmem (s : State) (v : Word) : (s.setPc v).dmem = s.dmem := rfl
@[simp] theorem setPc_reg (s : State) (v : Word) : (s.setPc v).reg = s.reg := rfl
@[simp] theorem setPc_ifid (s : State) (v : Word) : (s.setPc v).ifid = s.ifid := rfl
@[simp] theorem setPc_idex (s : State) (v : Word) : (s.setPc v).idex = s.idex := rfl
@[simp] theorem setPc_exmem (s : State) (v : Word) : (s.setPc v).exmem = s.exmem := rfl
@[simp] theorem setPc_memwb (s : State) (v : Word) : (s.setPc v).memwb = s.memwb := rfl
@[simp] theorem setPc_wbend (s : State) (v : Word) : (s.setPc v).wbend = s.wbend := rfl
@[simp] theorem setPc_cycles (s : State) (v : Word) : (s.setPc v).cycles = s.cycles := rfl
@[simp] theorem setPc_params (s : State) (v : Word) : (s.setPc v).params = s.params := rfl
@[simp] theorem setPc_stage (s : State) (v : Word) : (s.setPc v).stage = s.stage := rfl

@[simp] theorem setImem_pc (s : State) (v : Memory) : (s.setImem v).pc = s.pc := rfl
@[simp] theorem setImem_imem (s : State) (v : Memory) : (s.setImem v).imem = v := rfl
@[simp] theorem setImem_dmem (s : State) (v : Memory) : (s.setImem v).dmem = s.dmem := rfl
@[simp] theorem setImem_reg (s : State) (v : Memory) : (s.setImem v).reg = s.reg := rfl
@[simp] theorem setImem_ifid (s : State) (v : Memory) : (s.setImem v).ifid = s.ifid := rfl
@[simp] theorem setImem_idex (s : State) (v : Memory) : (s.setImem v).idex = s.idex := rfl
@[simp] theorem setImem_exmem (s : State) (v : Memory) : (s.setImem v).exmem = s.exmem := rfl
@[simp] theorem setImem_memwb (s : State) (v : Memory) : (s.setImem v).memwb = s.memwb := rfl
@[simp] theorem setImem_wbend (s : State) (v : Memory) : (s.setImem v).wbend = s.wbend := rfl
@[simp] theorem setImem_cycles (s : State) (v : Memory) : (s.setImem v).cycles = s.cycles := rfl
@[simp] theorem setImem_params (s : State) (v : Memory) : (s.setImem v).params = s.params := rfl
@[simp] theorem setImem_stage (s : State) (v : Memory) : (s.setImem v).stage = s.stage := rfl

@[simp] theorem setDmem_pc (s : State) (v : Memory) : (s.setDmem v).pc = s.pc := rfl
@[simp] theorem setDmem_imem (s : State) (v : Memory) : (s.setDmem v).imem = s.imem := rfl
@[simp] theorem setDmem_dmem (s : State) (v : Memory) : (s.setDmem v).dmem = v := rfl
@[simp] theorem setDmem_reg (s : State) (v : Memory) : (s.setDmem v).reg = s.reg := rfl
@[simp] theorem setDmem_ifid (s : State) (v : Memory) : (s.setDmem v).ifid = s.ifid := rfl
@[simp] theorem setDmem_idex (s : State) (v : Memory) : (s.setDmem v).idex = s.idex := rfl
@[simp] theorem setDmem_exmem (s : State) (v : Memory) : (s.setDmem v).exmem = s.exmem := rfl
@[simp] theorem setDmem_memwb (s : State) (v : Memory) : (s.setDmem v).memwb = s.memwb := rfl
@[simp] theorem setDmem_wbend (s : State) (v : Memory) : (s.setDmem v).wbend = s.wbend := rfl
@[simp] theorem setDmem_cycles (s : State) (v : Memory) : (s.setDmem v).cycles = s.cycles := rfl
@[simp] theorem setDmem_params (s : State) (v : Memory) : (s.setDmem v).params = s.params := rfl
@[simp] theorem setDmem_stage (s : State) (v : Memory) : (s.setDmem v).stage = s.stage := rfl

@[simp] theorem setReg_pc (s : State) (v : RegFile) : (s.setReg v).pc = s.pc := rfl
@[simp] theorem setReg_imem (s : State) (v : RegFile) : (s.setReg v).imem = s.imem := rfl
@[simp] theorem setReg_dmem (s : State) (v : RegFile) : (s.setReg v).dmem = s.dmem := rfl
@[simp] theorem setReg_reg (s : State) (v : RegFile) : (s.setReg v).reg = v := rfl
@[simp] theorem setReg_ifid (s : State) (v : RegFile) : (s.setReg v).ifid = s.ifid := rfl
@[simp] theorem setReg_idex (s : State) (v : RegFile) : (s.setReg v).idex = s.idex := rfl
@[simp] theorem setReg_exmem (s : State) (v : RegFile) : (s.setReg v).exmem = s.exmem := rfl
@[simp] theorem setReg_memwb (s : State) (v : RegFile) : (s.setReg v).memwb = s.memwb := rfl
@[simp] theorem setReg_wbend (s : State) (v : RegFile) : (s.setReg v).wbend = s.wbend := rfl
@[simp] theorem setReg_cycles (s : State) (v : RegFile) : (s.setReg v).cycles = s.cycles := rfl
@[simp] theorem setReg_params (s : State) (v : RegFile) : (s.setReg v).params = s.params := rfl
@[simp] theorem setReg_stage (s : State) (v : RegFile) : (s.setReg v).stage = s.stage := rfl

@[simp] theorem setIfid_pc (s : State) (v : IFID) : (s.setIfid v).pc = s.pc := rfl
@[simp] theorem setIfid_imem (s : State) (v : IFID) : (s.setIfid v).imem = s.imem := rfl
@[simp] theorem setIfid_dmem (s : State) (v : IFID) : (s.setIfid v).dmem = s.dmem := rfl
@[simp] theorem setIfid_reg (s : State) (v : IFID) : (s.setIfid v).reg = s.reg := rfl
@[simp] theorem setIfid_ifid (s : State) (v : IFID) : (s.setIfid v).ifid = v := rfl
@[simp] theorem setIfid_idex (s : State) (v : IFID) : (s.setIfid v).idex = s.idex := rfl
@[simp] theorem setIfid_exmem (s : State) (v : IFID) : (s.setIfid v).exmem = s.exmem := rfl
@[simp] theorem setIfid_memwb (s : State) (v : IFID) : (s.setIfid v).memwb = s.memwb := rfl
@[simp] theorem setIfid_wbend (s : State) (v : IFID) : (s.setIfid v).wbend = s.wbend := rfl
@[simp] theorem setIfid_cycles (s : State) (v : IFID) : (s.setIfid v).cycles = s.cycles := rfl
@[simp] theorem setIfid_params (s : State) (v : IFID) : (s.setIfid v).params = s.params := rfl
@[simp] theorem setIfid_stage (s : State) (v : IFID) : (s.setIfid v).stage = s.stage := rfl

@[simp] theorem setIdex_pc (s : State) (v : IDEX) : (s.setIdex v).pc = s.pc := rfl
@[simp] theorem setIdex_imem (s : State) (v : IDEX) : (s.setIdex v).imem = s.imem := rfl
@[simp] theorem setIdex_dmem (s : State) (v : IDEX) : (s.setIdex v).dmem = s.dmem := rfl
@[simp] theorem setIdex_reg (s : State) (v : IDEX) : (s.setIdex v).reg = s.reg := rfl
@[simp] theorem setIdex_ifid (s : State) (v : IDEX) : (s.setIdex v).ifid = s.ifid := rfl
@[simp] theorem setIdex_idex (s : State) (v : IDEX) : (s.setIdex v).idex = v := rfl
@[simp] theorem setIdex_exmem (s : State) (v : IDEX) : (s.setIdex v).exmem = s.exmem := rfl
@[simp] theorem setIdex_memwb (s : State) (v : IDEX) : (s.setIdex v).memwb = s.memwb := rfl
@[simp] theorem setIdex_wbend (s : State) (v : IDEX) : (s.setIdex v).wbend = s.wbend := rfl
@[simp] theorem setIdex_cycles (s : State) (v : IDEX) : (s.setIdex v).cycles = s.cycles := rfl
@[simp] theorem setIdex_params (s : State) (v : IDEX) : (s.setIdex v).params = s.params := rfl
@[simp] theorem setIdex_stage (s : State) (v : IDEX) : (s.setIdex v).stage = s.stage := rfl

@[simp] theorem setExmem_pc (s : State) (v : EXMEM) : (s.setExmem v).pc = s.pc := rfl
@[simp] theorem setExmem_imem (s : State) (v : EXMEM) : (s.setExmem v).imem = s.imem := rfl
@[simp] theorem setExmem_dmem (s : State) (v : EXMEM) : (s.setExmem v).dmem = s.dmem := rfl
@[simp] theorem setExmem_reg (s : State) (v : EXMEM) : (s.setExmem v).reg = s.reg := rfl
@[simp] theorem setExmem_ifid (s : State) (v : EXMEM) : (s.setExmem v).ifid = s.ifid := rfl
@[simp] theorem setExmem_idex (s : State) (v : EXMEM) : (s.setExmem v).idex = s.idex := rfl
@[simp] theorem setExmem_exmem (s : State) (v : EXMEM) : (s.setExmem v).exmem = v := rfl
@[simp] theorem setExmem_memwb (s : State) (v : EXMEM) : (s.setExmem v).memwb = s.memwb := rfl
@[simp] theorem setExmem_wbend (s : State) (v : EXMEM) : (s.setExmem v).wbend = s.wbend := rfl
@[simp] theorem setExmem_cycles (s : State) (v : EXMEM) : (s.setExmem v).cycles = s.cycles := rfl
@[simp] theorem setExmem_params (s : State) (v : EXMEM) : (s.setExmem v).params = s.params := rfl
@[simp] theorem setExmem_stage (s : State) (v : EXMEM) : (s.setExmem v).stage = s.stage := rfl

@[simp] theorem setMemwb_pc (s : State) (v : MEMWB) : (s.setMemwb v).pc = s.pc := rfl
@[simp] theorem setMemwb_imem (s : State) (v : MEMWB) : (s.setMemwb v).imem = s.imem := rfl
@[simp] theorem setMemwb_dmem (s : State) (v : MEMWB) : (s.setMemwb v).dmem = s.dmem := rfl
@[simp] theorem setMemwb_reg (s : State) (v : MEMWB) : (s.setMemwb v).reg = s.reg := rfl
@[simp] theorem setMemwb_ifid (s : State) (v : MEMWB) : (s.setMemwb v).ifid = s.ifid := rfl
@[simp] theorem setMemwb_idex (s : State) (v : MEMWB) : (s.setMemwb v).idex = s.idex := rfl
@[simp] theorem setMemwb_exmem (s : State) (v : MEMWB) : (s.setMemwb v).exmem = s.exmem := rfl
@[simp] theorem setMemwb_memwb (s : State) (v : MEMWB) : (s.setMemwb v).memwb = v := rfl
@[simp] theorem setMemwb_wbend (s : State) (v : MEMWB) : (s.setMemwb v).wbend = s.wbend := rfl
@[simp] theorem setMemwb_cycles (s : State) (v : MEMWB) : (s.setMemwb v).cycles = s.cycles := rfl
@[simp] theorem setMemwb_params (s : State) (v : MEMWB) : (s.setMemwb v).params = s.params := rfl
@[simp] theorem setMemwb_stage (s : State) (v : MEMWB) : (s.setMemwb v).stage = s.stage := rfl

@[simp] theorem setWbend_pc (s : State) (v : WBEND) : (s.setWbend v).pc = s.pc := rfl
@[simp] theorem setWbend_imem (s : State) (v : WBEND) : (s.setWbend v).imem = s.imem := rfl
@[simp] theorem setWbend_dmem (s : State) (v : WBEND) : (s.setWbend v).dmem = s.dmem := rfl
@[simp] theorem setWbend_reg (s : State) (v : WBEND) : (s.setWbend v).reg = s.reg := rfl
@[simp] theorem setWbend_ifid (s : State) (v : WBEND) : (s.setWbend v).ifid = s.ifid := rfl
@[simp] theorem setWbend_idex (s : State) (v : WBEND) : (s.setWbend v).idex = s.idex := rfl
@[simp] theorem setWbend_exmem (s : State) (v : WBEND) : (s.setWbend v).exmem = s.exmem := rfl
@[simp] theorem setWbend_memwb (s : State) (v : WBEND) : (s.setWbend v).memwb = s.memwb := rfl
@[simp] theorem setWbend_wbend (s : State) (v : WBEND) : (s.setWbend v).wbend = v := rfl
@[simp] theorem setWbend_cycles (s : State) (v : WBEND) : (s.setWbend v).cycles = s.cycles := rfl
@[simp] theorem setWbend_params (s : State) (v : WBEND) : (s.setWbend v).params = s.params := rfl
@[simp] theorem setWbend_stage (s : State) (v : WBEND) : (s.setWbend v).stage = s.stage := rfl

@[simp] theorem setCycles_pc (s : State) (v : Nat) : (s.setCycles v).pc = s.pc := rfl
@[simp] theorem setCycles_imem (s : State) (v : Nat) : (s.setCycles v).imem = s.imem := rfl
@[simp] theorem setCycles_dmem (s : State) (v : Nat) : (s.setCycles v).dmem = s.dmem := rfl
@[simp] theorem setCycles_reg (s : State) (v : Nat) : (s.setCycles v).reg = s.reg := rfl
@[simp] theorem setCycles_ifid (s : State) (v : Nat) : (s.setCycles v).ifid = s.ifid := rfl
@[simp] theorem setCycles_idex (s : State) (v : Nat) : (s.setCycles v).idex = s.idex := rfl
@[simp] theorem setCycles_exmem (s : State) (v : Nat) : (s.setCycles v).exmem = s.exmem := rfl
@[simp] theorem setCycles_memwb (s : State) (v : Nat) : (s.setCycles v).memwb = s.memwb := rfl
@[simp] theorem setCycles_wbend (s : State) (v : Nat) : (s.setCycles v).wbend = s.wbend := rfl
@[simp] theorem setCycles_cycles (s : State) (v : Nat) : (s.setCycles v).cycles = v := rfl
@[simp] theorem setCycles_params (s : State) (v : Nat) : (s.setCycles v).params = s.params := rfl
@[simp] theorem setCycles_stage (s : State) (v : Nat) : (s.setCycles v).stage = s.stage := rfl

@[simp] theorem setParams_pc (s : State) (v : Params) : (s.setParams v).pc = s.pc := rfl
@[simp] theorem setParams_imem (s : State) (v : Params) : (s.setParams v).imem = s.imem := rfl
@[simp] theorem setParams_dmem (s : State) (v : Params) : (s.setParams v).dmem = s.dmem := rfl
@[simp] theorem setParams_reg (s : State) (v : Params) : (s.setParams v).reg = s.reg := rfl
@[simp] theorem setParams_ifid (s : State) (v : Params) : (s.setParams v).ifid = s.ifid := rfl
@[simp] theorem setParams_idex (s : State) (v : Params) : (s.setParams v).idex = s.idex := rfl
@[simp] theorem setParams_exmem (s : State) (v : Params) : (s.setParams v).exmem = s.exmem := rfl
@[simp] theorem setParams_memwb (s : State) (v : Params) : (s.setParams v).memwb = s.memwb := rfl
@[simp] theorem setParams_wbend (s : State) (v : Params) : (s.setParams v).wbend = s.wbend := rfl
@[simp] theorem setParams_cycles (s : State) (v : Params) : (s.setParams v).cycles = s.cycles := rfl
@[simp] theorem setParams_params (s : State) (v : Params) : (s.setParams v).params = v := rfl
@[simp] theorem setParams_stage (s : State) (v : Params) : (s.setParams v).stage = s.stage := rfl

@[simp] theorem setStage_pc (s : State) (v : Stage) : (s.setStage v).pc = s.pc := rfl
@[simp] theorem setStage_imem (s : State) (v : Stage) : (s.setStage v).imem = s.imem := rfl
@[simp] theorem setStage_dmem (s : State) (v : Stage) : (s.setStage v).dmem = s.dmem := rfl
@[simp] theorem setStage_reg (s : State) (v : Stage) : (s.setStage v).reg = s.reg := rfl
@[simp] theorem setStage_ifid (s : State) (v : Stage) : (s.setStage v).ifid = s.ifid := rfl
@[simp] theorem setStage_idex (s : State) (v : Stage) : (s.setStage v).idex = s.idex := rfl
@[simp] theorem setStage_exmem (s : State) (v : Stage) : (s.setStage v).exmem = s.exmem := rfl
@[simp] theorem setStage_memwb (s : State) (v : Stage) : (s.setStage v).memwb = s.memwb := rfl
@[simp] theorem setStage_wbend (s : State) (v : Stage) : (s.setStage v).wbend = s.wbend := rfl
@[simp] theorem setStage_cycles (s : State) (v : Stage) : (s.setStage v).cycles = s.cycles := rfl
@[simp] theorem setStage_params (s : State) (v : Stage) : (s.setStage v).params = s.params := rfl
@[simp] theorem setStage_stage (s : State) (v : Stage) : (s.setStage v).stage = v := rfl

/-! The squash (40 R79): the pc and three `instr` fields, nothing else. -/

@[simp] theorem squashYounger_pc (v : Word) (s : State) : (squashYounger v s).pc = v := rfl
@[simp] theorem squashYounger_imem (v : Word) (s : State) : (squashYounger v s).imem = s.imem := rfl
@[simp] theorem squashYounger_dmem (v : Word) (s : State) : (squashYounger v s).dmem = s.dmem := rfl
@[simp] theorem squashYounger_reg (v : Word) (s : State) : (squashYounger v s).reg = s.reg := rfl
@[simp] theorem squashYounger_ifid (v : Word) (s : State) : (squashYounger v s).ifid = bubbleIfid s.ifid := rfl
@[simp] theorem squashYounger_idex (v : Word) (s : State) : (squashYounger v s).idex = bubbleIdex s.idex := rfl
@[simp] theorem squashYounger_exmem (v : Word) (s : State) : (squashYounger v s).exmem = bubbleExmem s.exmem := rfl
@[simp] theorem squashYounger_memwb (v : Word) (s : State) : (squashYounger v s).memwb = s.memwb := rfl
@[simp] theorem squashYounger_wbend (v : Word) (s : State) : (squashYounger v s).wbend = s.wbend := rfl
@[simp] theorem squashYounger_cycles (v : Word) (s : State) : (squashYounger v s).cycles = s.cycles := rfl
@[simp] theorem squashYounger_params (v : Word) (s : State) : (squashYounger v s).params = s.params := rfl
@[simp] theorem squashYounger_stage (v : Word) (s : State) : (squashYounger v s).stage = s.stage := rfl

@[simp] theorem bubbleIfid_instr (r : IFID) : (bubbleIfid r).instr = noopWord := rfl
@[simp] theorem bubbleIfid_pcPlus1 (r : IFID) : (bubbleIfid r).pcPlus1 = r.pcPlus1 := rfl
@[simp] theorem bubbleIdex_instr (r : IDEX) : (bubbleIdex r).instr = noopWord := rfl
@[simp] theorem bubbleIdex_pcPlus1 (r : IDEX) : (bubbleIdex r).pcPlus1 = r.pcPlus1 := rfl
@[simp] theorem bubbleIdex_valA (r : IDEX) : (bubbleIdex r).valA = r.valA := rfl
@[simp] theorem bubbleIdex_valB (r : IDEX) : (bubbleIdex r).valB = r.valB := rfl
@[simp] theorem bubbleIdex_offset (r : IDEX) : (bubbleIdex r).offset = r.offset := rfl
@[simp] theorem bubbleExmem_instr (r : EXMEM) : (bubbleExmem r).instr = noopWord := rfl
@[simp] theorem bubbleExmem_branchTarget (r : EXMEM) : (bubbleExmem r).branchTarget = r.branchTarget := rfl
@[simp] theorem bubbleExmem_eq (r : EXMEM) : (bubbleExmem r).eq = r.eq := rfl
@[simp] theorem bubbleExmem_aluResult (r : EXMEM) : (bubbleExmem r).aluResult = r.aluResult := rfl
@[simp] theorem bubbleExmem_valB (r : EXMEM) : (bubbleExmem r).valB = r.valB := rfl

@[simp] theorem andThen_next (s : State) (f : State → Outcome) : andThen (.next s) f = f s := rfl
@[simp] theorem andThen_fault (r : Fault) (f : State → Outcome) : andThen (.fault r) f = .fault r := rfl
@[simp] theorem andThen_refused (r : Refusal) (f : State → Outcome) : andThen (.refused r) f = .refused r := rfl

/-- What `andThen` answers a next state from. -/
theorem andThen_eq_next {o : Outcome} {f : State → Outcome} {t : State} :
    andThen o f = .next t ↔ ∃ s, o = .next s ∧ f s = .next t := by
  cases o <;> simp

end Sys2Proof.Machine
end

