-- ==== Sys2Proof/Laws/Stages.lean ====
section
/-! SUPPORT. What each stage of the cycle answers, once, and from that the whole cycle: a halted core keeps its state,
a cycle that raises answers the oldest instruction's fault, and every other cycle answers `nextState`. -/

namespace Sys2Proof.Machine

/-! ## The resolver does not read the model's own stage field -/

@[simp] theorem operandA_setStage (s : State) (k : Stage) : operandA (s.setStage k) = operandA s := rfl
@[simp] theorem operandB_setStage (s : State) (k : Stage) : operandB (s.setStage k) = operandB s := rfl

/-! ## The stages -/

/-- The execute stage never fails and latches the ALU table (41 R97, R98). -/
theorem runStage_execute (s : State) :
    runStage .execute s = .next (latchExecute (aluTable s) (s.setStage .execute)) := by
  unfold runStage decode aluTable
  cases h : opname s.idex.instr <;>
    simp [stageWord, h, exec, execAdd, execNor, execLw, execSw, execBeq, execJalr, execHalt, execNoop, runIllegal,
      aluAdd, aluNor, aluAddress, aluDifference, aluKept]

/-- The state the memory stage leaves on its own copy (41 R99). -/
def memoryCopy (s : State) : State :=
  let t := ((s.setStage .memory).setMemwb { instr := s.exmem.instr, writeData := writeDataTable s }).setDmem (dmemTable s)
  if squash s then squashYounger s.exmem.branchTarget t else t

/-- The memory stage faults by 60 R162 code 2 and otherwise leaves the tables of 41 R99, and a taken branch its squash. -/
theorem runStage_memory (s : State) :
    runStage .memory s = match memoryFault s with
      | some f => .fault f
      | none => .next (memoryCopy s) := by
  unfold runStage decode memoryFault memoryCopy writeDataTable dmemTable squash
  cases h : opname s.exmem.instr
  case lw | sw =>
    by_cases v : 0 ≤ s.exmem.aluResult.toInt ∧ s.exmem.aluResult.toInt < (s.params.memWords : Int)
    · simp [stageWord, h, exec, execLw, execSw, dataAccess, addressValid, v]
      rfl
    · rw [if_neg v]
      simp only [not_and_or] at v
      rcases v with v | v <;>
        simp [stageWord, h, exec, execLw, execSw, dataAccess, addressValid, v, raise]
  case beq =>
    cases e : s.exmem.eq
    · simp [stageWord, h, exec, execBeq, e]
      rfl
    · simp [stageWord, h, exec, execBeq, e]
      rfl
  all_goals
    simp [stageWord, h, exec, execAdd, execNor, execJalr, execHalt, execNoop, runIllegal]
    rfl

/-- The state the writeback stage leaves on its own copy (41 R100, R101). -/
def writebackCopy (s : State) : State :=
  ((s.setStage .writeback).setWbend { instr := s.memwb.instr, writeData := s.memwb.writeData }).setReg (regTable s)

/-- The writeback stage of a core that is not halted faults by 60 R162 codes 3 to 5 and otherwise leaves the table of
41 R100 and retires. -/
theorem runStage_writeback {s : State} (running : halted s = false) :
    runStage .writeback s = match writebackFault s with
      | some f => .fault f
      | none => .next (writebackCopy s) := by
  unfold runStage decode writebackFault writebackCopy regTable
  cases h : opname s.memwb.instr
  case halt => simp [halted, h] at running
  case add | nor =>
    by_cases v : 7 < (field2 s.memwb.instr).toNat
    · simp [stageWord, h, exec, execAdd, execNor, retireRClass, v, raise]
    · simp [stageWord, h, exec, execAdd, execNor, retireRClass, v]
      rfl
  case jalr =>
    cases m : s.params.jalrMode
    · simp [stageWord, h, exec, execJalr, m]
      rfl
    · simp [stageWord, h, exec, execJalr, m, raise]
  case illegal =>
    cases m : s.params.illegalOpMode
    · simp [stageWord, h, runIllegal, m]
      rfl
    · simp [stageWord, h, runIllegal, m, raise]
  all_goals
    simp [stageWord, h, exec, execLw, execSw, execBeq, execNoop]
    rfl

/-- The state the fetch stage leaves on its own copy (41 R94). -/
def fetchCopy (s : State) : State :=
  if stall s || squash s then s.setIfid { s.ifid with pcPlus1 := s.pc + 1 }
  else (s.setIfid { instr := s.imem.read s.pc.toNat, pcPlus1 := s.pc + 1 }).setPc (s.pc + 1)

/-- The fetch stage faults by 60 R162 code 1 and otherwise leaves `fetchCopy`. -/
theorem fetchStage_eq (s : State) :
    fetchStage s = match fetchFault s with
      | some f => .fault f
      | none => .next (fetchCopy s) := by
  unfold fetchStage fetchFault fetchCopy
  by_cases h : stall s = true ∨ squash s = true
  · have h' : (stall s || squash s) = true := by simpa using h
    rw [if_pos h', if_pos (by tauto), if_pos h']
  · have h' : ¬ (stall s || squash s) = true := by simpa using h
    rw [if_neg h', if_neg h']
    by_cases v : addressValid s.params s.pc = true
    · rw [if_pos v, if_pos (Or.inr (Or.inr (addressValid_iff.mp v)))]
    · rw [if_neg v, if_neg (by rw [← addressValid_iff]; tauto)]
      rfl

/-! ## The cycle -/

/-- Assembling the stages' copies and applying the overrides gives the next state, field by field. -/
theorem assembled_eq_nextState (s : State) :
    applySquash s (memoryCopy s)
      (applyStall s (assemble s (writebackCopy s) (memoryCopy s) (latchExecute (aluTable s) (s.setStage .execute))
        (fetchCopy s))) = nextState s := by
  unfold applySquash applyStall
  cases hq : squash s <;> cases hs : stall s <;>
    simp [nextState, assemble, memoryCopy, writebackCopy, fetchCopy, latchExecute, decodeStage, equalityFlag, hq, hs,
      State.setPc, State.setIfid, State.setIdex, State.setExmem, State.setMemwb, State.setWbend, State.setReg,
      State.setDmem, State.setStage, squashYounger, bubbleIfid, bubbleIdex, bubbleExmem, operandA, operandB, forward]

/-- One step, wholly (41 R91). -/
theorem step_eq (s : State) :
    step s = if halted s then .next s else
      match cycleFault s with
      | some f => .fault f
      | none => .next (nextState s) := by
  unfold step cycle
  cases h : halted s
  · simp only [Bool.false_eq_true, if_false]
    rw [runStage_writeback h, runStage_memory, runStage_execute, fetchStage_eq]
    unfold cycleFault
    cases writebackFault s <;> cases memoryFault s <;> cases fetchFault s <;>
      simp [assembled_eq_nextState]
  · simp

/-- When a step answers a next state: a halted core's own state, or, where nothing is raised, `nextState`. -/
theorem step_next_cases {s t : State} (h : step s = .next t) :
    (halted s = true ∧ t = s) ∨ (halted s = false ∧ cycleFault s = none ∧ t = nextState s) := by
  rw [step_eq] at h
  cases hh : halted s <;> simp only [hh] at h
  · right
    cases hf : cycleFault s <;> simp [hf] at h
    exact ⟨rfl, rfl, h.symm⟩
  · left
    simp at h
    exact ⟨rfl, h.symm⟩

/-! ## A word placed to be fetched, and one placed to be run -/

/-- All that `placeAtFetch` changes. -/
theorem placeAtFetch_eq (s : State) (w : Word) :
    placeAtFetch s w =
      { s with
        imem := s.imem.write s.pc.toNat w, ifid := bubbleIfid s.ifid, idex := bubbleIdex s.idex
        exmem := bubbleExmem s.exmem, memwb := { s.memwb with instr := noopWord } } := rfl

/-- All that `placeAtExecute` changes. -/
theorem placeAtExecute_eq (s : State) (w : Word) :
    placeAtExecute s w =
      { s with
        pc := s.pc + 1, imem := s.imem.write s.pc.toNat w, ifid := ⟨noopWord, s.pc + 1⟩
        idex := ⟨w, s.pc + 1, s.reg.read (field0 w), s.reg.read (field1 w), offset w⟩
        exmem := bubbleExmem s.exmem, memwb := { s.memwb with instr := noopWord }
        wbend := { s.wbend with instr := noopWord } } := rfl

/-- A whole word is placed as it is. -/
theorem withFetchWord_eq (s : State) (w : Nat) : s.withFetchWord 32 w = placeAtExecute s (BitVec.ofNat 32 w) := by
  have : BitVec.ofNat 32 (w % 2 ^ 32) = BitVec.ofNat 32 w := BitVec.eq_of_toNat_eq (by simp)
  rw [← this]; rfl

end Sys2Proof.Machine
end

