-- ==== Sys2Proof/Tests/Slice0.lean ====
section
/-! SUPPORT. The model's own tests, few and small.  Expected results come from the tables and examples of spec/95 and of
the instruction rules, or from hand calculation by the rule each comment names.  The theorems test_hyp_… show, for each
statement with hypotheses, a concrete state that meets them. -/

open Sys2Proof Sys2Proof.Machine

/-! ## Ill-formed instructions: the check refuses each (30 R55, R60) -/

theorem test_illformed_add : (Instr.add 0 0 8).wellFormed = false := by decide
theorem test_illformed_nor : (Instr.nor 7 7 0xFFFF).wellFormed = false := by decide
theorem test_wellformed_add : (Instr.add 0 0 7).wellFormed = true := by decide
theorem test_not_canonical_add : (Instr.add 0 0 8).canonical = false := by decide
theorem test_not_canonical_nor : (Instr.nor 0 0 8).canonical = false := by decide
theorem test_not_canonical_jalr : (Instr.jalr 1 2 1).canonical = false := by decide
theorem test_not_canonical_halt : (Instr.halt 1).canonical = false := by decide
theorem test_not_canonical_noop : (Instr.noop 1).canonical = false := by decide

/-! ## Decoder and encoder (95 V1, V2) -/

theorem test_decode_add : decode 0b0000000000_001_001_0000000000000010 = .ok (.add 1 1 2) := by decide
theorem test_decode_nor : decode 0b0000000001_011_100_0000000000000101 = .ok (.nor 3 4 5) := by decide
theorem test_decode_lw : decode 0b0000000010_000_001_0000000000000000 = .ok (.lw 0 1 0) := by decide
theorem test_decode_sw : decode 0b0000000011_000_100_0000000000001011 = .ok (.sw 0 4 11) := by decide
theorem test_decode_beq : decode 0b0000000100_000_000_1111111111111011 = .ok (.beq 0 0 0xFFFB) := by decide
theorem test_decode_jalr : decode 0b0000000101_001_010_0000000000000000 = .ok (.jalr 1 2 0) := by decide
theorem test_decode_halt : decode 0b0000000110_000_000_0000000000000000 = .ok (.halt 0) := by decide
theorem test_decode_noop : decode 0b0000000111_000_000_0000000000000000 = .ok (.noop 0) := by decide
theorem test_decode_reserved : decode 0x00000008 = .ok (.add 0 0 8) := by decide
theorem test_decode_illegal_bit25 : decode 0x02000000 = .error (.illegalOpcode 0x02000000) := by decide
theorem test_op_lowest : op 0x80000000 = -512 ∧ op 0x7FFFFFFF = 511 ∧ op 0xFFC00000 = -1 := by decide
theorem test_encode_words : encode (.lw 0 1 10) = 0x0081000A ∧ encode (.beq 0 0 0xFFFE) = 0x0100FFFE ∧
    encode (.sw 1 1 0) = 0x00C90000 ∧ encode (.nor 1 1 4) = 0x00490004 ∧ encode (.jalr 1 2 0) = 0x014A0000 ∧
    encode (.add 1 2 3) = 0x000A0003 ∧ encode (.halt 0) = 0x01800000 ∧ encode (.noop 0) = noopWord := by decide
theorem test_noopWord_decimal : noopWord.toNat = 29360128 := by decide
/-- 95 W2. -/
theorem test_sext16 : sext16 0x7FFF = 32767 ∧ sext16 0x8000 = 0xFFFF8000 ∧ sext16 0xFFFB = 0xFFFFFFFB := by decide
theorem test_table_word : decodeTableWord 32 0x01000000 = some (.beq 0 0 0) ∧ decodeTableWord 32 0x02000000 = none := by
  decide

/-! ## Small states: one instruction word in one pipeline register, the rest as after reset -/

/-- `i` in ID/EX, with operands 5 and 7 read in decode and its offset. -/
def inExecute (i : Instr) : State :=
  { State.reset with idex := ⟨encode i, 7, 5, 7, offset (encode i)⟩, stage := .execute }

/-- `i` in EX/MEM with the ALU result, the equality flag and the stored value given. -/
def inMemory (i : Instr) (alu : Word) (eq : Bool) (valB : Word) : State :=
  { State.reset with exmem := ⟨encode i, 2, eq, alu, valB⟩, dmem := [(10, 5)], pc := 9, stage := .memory }

/-- `i` in MEM/WB with the write-back data 12. -/
def inWriteback (i : Instr) : State :=
  { State.reset with memwb := ⟨encode i, 12⟩, stage := .writeback }

/-- The same machine with both parameters at fault_at_writeback. -/
def strict (s : State) : State :=
  { s with params := { s.params with illegalOpMode := .faultAtWriteback, jalrMode := .faultAtWriteback } }

/-- The next state of an outcome, or the state given. -/
def nextOr (d : State) : Outcome → State
  | .next s => s
  | .fault _ => d
  | .refused _ => d

def isNext : Outcome → Bool
  | .next _ => true
  | .fault _ => false
  | .refused _ => false

/-! ## Instructions, one stage each (42 to 45, 95 V3 to V5, V9, V10) -/

/-- 42 R120 example: 5 + 7 = 12. -/
theorem test_add_execute :
    (nextOr State.reset (exec (.add 1 2 3) (inExecute (.add 1 2 3)))).exmem.aluResult = 12 := by decide
/-- 42 R120: the destination, r0 among them, gets the write-back data; 8 is a reserved form. -/
theorem test_add_writeback :
    ((nextOr State.reset (exec (.add 1 2 0) (inWriteback (.add 1 2 0)))).reg.read 0 = 12) ∧
    exec (.add 0 0 8) (inWriteback (.add 0 0 8)) = .fault (.reservedDestFault 8 0) := ⟨by decide, rfl⟩
/-- 95 V3: ~(5 | 7) = -8. -/
theorem test_nor_execute :
    (nextOr State.reset (exec (.nor 1 2 3) (inExecute (.nor 1 2 3)))).exmem.aluResult = 0xFFFFFFF8 := by decide
theorem test_nor_writeback :
    ((nextOr State.reset (exec (.nor 3 4 5) (inWriteback (.nor 3 4 5)))).reg.read 5 = 12) := by decide
/-- 95 V4: base 5, offset -5 is address 0; dmem[10] = 5 is loaded; 65536 faults. -/
theorem test_lw_execute :
    (nextOr State.reset (exec (.lw 1 2 0xFFFB) (inExecute (.lw 1 2 0xFFFB)))).exmem.aluResult = 0 := by decide
theorem test_lw_memory :
    (nextOr State.reset (exec (.lw 0 1 10) (inMemory (.lw 0 1 10) 10 false 0))).memwb.writeData = 5 ∧
    exec (.lw 0 1 1) (inMemory (.lw 0 1 1) 0x00010000 false 0) = .fault (.dataAddressFault 0x00010000 0) :=
  ⟨by decide, rfl⟩
/-- 43 R131 example: dmem[11] = 6; -1 faults. -/
theorem test_sw_memory :
    (nextOr State.reset (exec (.sw 0 4 11) (inMemory (.sw 0 4 11) 11 false 6))).dmem = [(10, 5), (11, 6)] ∧
    exec (.sw 0 4 11) (inMemory (.sw 0 4 11) 0xFFFFFFFF false 6) = .fault (.dataAddressFault 0xFFFFFFFF 0) :=
  ⟨by decide, rfl⟩
/-- Writing what an unlisted word holds removes the cell. -/
theorem test_sw_zero_removes :
    (nextOr State.reset (exec (.sw 0 4 10) (inMemory (.sw 0 4 10) 10 false 0))).dmem = [] := by decide
/-- 95 V3, V5: 5 - 7 = -2, not equal; a branch at address 6 with offset -5 goes to 2. -/
theorem test_beq_execute :
    (nextOr State.reset (exec (.beq 1 2 0xFFFB) (inExecute (.beq 1 2 0xFFFB)))).exmem =
      ⟨encode (.beq 1 2 0xFFFB), 2, false, 0xFFFFFFFE, 7⟩ := by decide
theorem test_beq_memory_taken :
    (nextOr State.reset (exec (.beq 0 0 1) (inMemory (.beq 0 0 1) 0 true 0))).pc = 2 ∧
    (nextOr State.reset (exec (.beq 0 0 1) (inMemory (.beq 0 0 1) 0 false 0))).pc = 9 := by decide
/-- 44 R141: nothing, or UnimplementedFault with the word. -/
theorem test_jalr_writeback :
    (nextOr State.reset (exec (.jalr 1 2 0) (inWriteback (.jalr 1 2 0)))).wbend = ⟨0x014A0000, 12⟩ ∧
    exec (.jalr 1 2 0) (strict (inWriteback (.jalr 1 2 0))) = .fault (.unimplementedFault 0x014A0000 0) :=
  ⟨by decide, rfl⟩
theorem test_jalr_execute_keeps_alu :
    (nextOr State.reset (exec (.jalr 1 2 0) (inExecute (.jalr 1 2 0)))).exmem.aluResult = 0 := by decide
/-- 45 R150, 41 R110: a halt in MEM/WB stops the machine. -/
theorem test_halt_stops : step (inWriteback (.halt 0)) = .next (inWriteback (.halt 0)) := rfl
theorem test_halt_memory :
    (nextOr State.reset (exec (.halt 0) (inMemory (.halt 0) 3 false 0))).memwb = ⟨0x01800000, 3⟩ := by decide
theorem test_noop_writeback :
    (nextOr State.reset (exec (.noop 0) (inWriteback (.noop 0)))).wbend = ⟨noopWord, 12⟩ := by decide
theorem test_noop_execute_keeps_alu :
    (nextOr State.reset (exec (.noop 0) (inExecute (.noop 0)))).exmem.aluResult = 0 := by decide
/-- 95 V9: .fill -1, both modes. -/
theorem test_illegal_writeback :
    isNext (step { State.reset with memwb := ⟨0xFFFFFFFF, 0⟩ }) = true ∧
    step (strict { State.reset with memwb := ⟨0xFFFFFFFF, 0⟩ }) = .fault (.illegalOpcodeFault 0xFFFFFFFF 0) :=
  ⟨by decide, rfl⟩

/-! ## The resolver (95 V6 to V8) -/

/-- An ID/EX and an IF/ID word, the rest as after reset. -/
def pair (idex ifid : Instr) : State :=
  { State.reset with idex := ⟨encode idex, 0, 0, 0, 0⟩, ifid := ⟨encode ifid, 2⟩, pc := 2 }

/-- Rows of 95 V6. -/
theorem test_stall_rows :
    stall (pair (.lw 0 1 0) (.add 1 1 2)) = true ∧ stall (pair (.lw 0 1 0) (.add 2 1 3)) = true ∧
    stall (pair (.lw 0 1 0) (.add 2 3 1)) = false ∧ stall (pair (.lw 0 0 5) (.halt 0)) = true ∧
    stall (pair (.lw 0 1 0) (.jalr 1 2 0)) = true ∧ stall (pair (.sw 0 1 0) (.add 1 1 1)) = false := by decide

/-- `add 1 2 3` in ID/EX with 100 and 200 read, and three words behind it (95 V7). -/
def forwarding (ex mem wb : Instr) : State :=
  { State.reset with
    idex := ⟨encode (.add 1 2 3), 0, 100, 200, 0⟩, exmem := ⟨encode ex, 0, false, 30, 0⟩
    memwb := ⟨encode mem, 20⟩, wbend := ⟨encode wb, 10⟩ }

/-- Rows 1, 4, 5 and 6 of 95 V7. -/
theorem test_forward_rows :
    operandA (forwarding (.add 0 0 1) (.add 0 0 1) (.add 0 0 1)) = 30 ∧
    operandA (forwarding (.sw 0 1 0) (.lw 0 1 4) (.noop 0)) = 20 ∧
    operandB (forwarding (.noop 0) (.noop 0) (.nor 0 0 2)) = 10 ∧
    operandA (forwarding (.add 0 0 9) (.noop 0) (.noop 0)) = 100 := by decide

/-- State 3 of 95 P6: a taken beq in EX/MEM, an lw in ID/EX and a word that uses it in IF/ID. -/
def collision : State :=
  { pair (.lw 0 1 6) (.add 1 1 2) with
    ifid := ⟨encode (.add 1 1 2), 3⟩, pc := 3, exmem := ⟨encode (.beq 0 0 2), 3, true, 0, 0⟩, cycles := 3 }

/-- 95 P6, state 4, with the IF/ID `pcPlus1` its last bullet gives (log entry 5). -/
theorem test_squash_overrides_stall :
    stall collision = true ∧ (nextOr State.reset (step collision)).pc = 3 ∧
    (nextOr State.reset (step collision)).ifid = ⟨noopWord, 3⟩ ∧
    (nextOr State.reset (step collision)).exmem.instr = noopWord ∧
    (nextOr State.reset (step collision)).memwb.instr = encode (.beq 0 0 2) := by decide

/-- State 2 of 95 W4, and state 3 after its stall. -/
theorem test_load_use_stall :
    (nextOr State.reset (step (pair (.lw 0 1 0) (.add 1 1 2)))).idex.instr = noopWord ∧
    (nextOr State.reset (step (pair (.lw 0 1 0) (.add 1 1 2)))).pc = 2 ∧
    (nextOr State.reset (step (pair (.lw 0 1 0) (.add 1 1 2)))).ifid = ⟨encode (.add 1 1 2), 2⟩ := by decide

/-- 95 F3: the oldest instruction's fault is the one recorded. -/
theorem test_fault_priority :
    step { State.reset with memwb := ⟨8, 0⟩, exmem := ⟨encode (.lw 0 1 0xFFFF), 0, false, 0xFFFFFFFF, 0⟩, cycles := 4 }
      = .fault (.reservedDestFault 8 4) := rfl

/-- 95 F7: the fetch at 0xFFFFFFFF. -/
theorem test_fetch_fault :
    step { State.reset with pc := 0xFFFFFFFF, cycles := 5 } = .fault (.fetchAddressFault 0xFFFFFFFF 5) := rfl

/-- 95 W3, state 1: the first word is fetched from address 0. -/
theorem test_first_fetch :
    (nextOr State.reset (step (loadImage defaultParams [0x01800000]))).ifid = ⟨0x01800000, 1⟩ := by decide

/-- 70 R182: the image in both memories, zeros left unlisted; DMEM_INIT = zero leaves data memory empty. -/
theorem test_load_image :
    (loadImage defaultParams [5, 0, 7]).imem = [(0, 5), (2, 7)] ∧ (loadImage defaultParams [5, 0, 7]).dmem = [(0, 5), (2, 7)] ∧
    (loadImage { defaultParams with dmemInit := .zero } [5, 0, 7]).dmem = [] := by decide

theorem test_load_refused :
    loadFile { defaultParams with memWords := 1 } [['1'], ['2']] = .error (.parseError 1) ∧
    loadFile defaultParams [['1'], ['x']] = .error (.parseError 1) := ⟨rfl, rfl⟩

/-- 70 R182(g): the empty file gives the state after reset. -/
theorem test_empty_image_is_reset : loadFile defaultParams [] = .ok State.reset := rfl

theorem test_reset_is_running : State.reset.runStatus = .running := by decide
theorem test_halted_status : (inWriteback (.halt 0)).runStatus = .halted := by decide

/-! ## Each statement's hypotheses are met -/

/-- EncodeOfDecodeIsIdentity. -/
theorem test_hyp_decode : decode 0x00490004 = .ok (.nor 1 1 4) ∧ encode (.nor 1 1 4) = 0x00490004 := by decide

/-- DecodeRejectsExactlyHighBits and SelectorIsSignedHighField, both sides. -/
theorem test_hyp_high_bits : (0x01FFFFFF : Word).extractLsb' 25 7 = 0 ∧ opname 0x01FFFFFF = .noop ∧
    (0x02000000 : Word).extractLsb' 25 7 ≠ 0 ∧ op 0x02000000 = 8 := by decide

/-- EncodingMatchesOpcodeTable. -/
theorem test_hyp_mask : (0x00FF1234 : Word) &&& 0xFFC00000 = encode (.sw 1 2 3) &&& 0xFFC00000 := by decide

/-- OverlongFileIsRefused. -/
theorem test_hyp_overlong : ({ defaultParams with memWords := 1 } : Params).memWords < [['1'], ['2']].length := by decide

/-- LoadedLineIsValueModuloTwoToThe32. -/
theorem test_hyp_line : loadFile defaultParams [['-', '1']] = .ok (loadImage defaultParams [0xFFFFFFFF]) ∧
    (loadImage defaultParams [0xFFFFFFFF]).imem.read 0 = BitVec.ofInt 32 (-1) := ⟨rfl, by decide⟩

/-- CanonicalMemoriesAreEqualWhenReadsAgree. -/
theorem test_hyp_canonical : Memory.wf [(3, 9), (65535, 1)] = true ∧ Memory.wf [(3, 0)] = false ∧
    Memory.wf [(4, 1), (3, 1)] = false := by decide

/-- AddressValidityIsAnUnsignedRange, at both ends of the range and with the largest memory. -/
theorem test_hyp_address : defaultParams.valid ∧ addressValid defaultParams 65535 = true ∧
    addressValid defaultParams 65536 = false ∧
    addressValid { defaultParams with memWords := 2 ^ 31 } 0x7FFFFFFF = true ∧
    addressValid { defaultParams with memWords := 2 ^ 31 } 0x80000000 = false := by decide

/-- The stage hypotheses of the eight instruction statements: Execute. -/
theorem test_hyp_execute :
    InStage .execute (.add 1 2 3) (inExecute (.add 1 2 3)) ∧ InStage .execute (.nor 1 2 3) (inExecute (.nor 1 2 3)) ∧
    InStage .execute (.lw 1 2 3) (inExecute (.lw 1 2 3)) ∧ InStage .execute (.sw 1 2 3) (inExecute (.sw 1 2 3)) ∧
    InStage .execute (.beq 1 2 3) (inExecute (.beq 1 2 3)) ∧ InStage .execute (.jalr 1 2 3) (inExecute (.jalr 1 2 3)) ∧
    InStage .execute (.halt 9) (inExecute (.halt 9)) ∧ InStage .execute (.noop 9) (inExecute (.noop 9)) := by decide

/-- Memory: add, nor, jalr, halt, noop. -/
theorem test_hyp_memory_pass :
    InStage .memory (.add 1 2 3) (inMemory (.add 1 2 3) 0 false 0) ∧
    InStage .memory (.nor 1 2 3) (inMemory (.nor 1 2 3) 0 false 0) ∧
    InStage .memory (.jalr 1 2 3) (inMemory (.jalr 1 2 3) 0 false 0) ∧
    InStage .memory (.halt 9) (inMemory (.halt 9) 0 false 0) ∧
    InStage .memory (.noop 9) (inMemory (.noop 9) 0 false 0) := by decide

/-- Memory: lw and sw at the last valid address, at the first invalid one, and below 0. -/
theorem test_hyp_memory_access :
    (InStage .memory (.lw 1 2 3) (inMemory (.lw 1 2 3) 65535 false 0) ∧
      0 ≤ (65535 : Word).toInt ∧ (65535 : Word).toInt < (defaultParams.memWords : Int)) ∧
    (InStage .memory (.lw 1 2 3) (inMemory (.lw 1 2 3) 65536 false 0) ∧
      (defaultParams.memWords : Int) ≤ (65536 : Word).toInt) ∧
    (InStage .memory (.sw 1 2 3) (inMemory (.sw 1 2 3) 0 false 0) ∧ 0 ≤ (0 : Word).toInt) ∧
    (InStage .memory (.sw 1 2 3) (inMemory (.sw 1 2 3) 0xFFFFFFFF false 0) ∧ (0xFFFFFFFF : Word).toInt < 0) := by decide

/-- Memory: beq taken and not taken. -/
theorem test_hyp_memory_beq :
    (InStage .memory (.beq 1 2 3) (inMemory (.beq 1 2 3) 0 true 0) ∧ (inMemory (.beq 1 2 3) 0 true 0).exmem.eq = true) ∧
    (InStage .memory (.beq 1 2 3) (inMemory (.beq 1 2 3) 0 false 0) ∧
      (inMemory (.beq 1 2 3) 0 false 0).exmem.eq = false) := by decide

/-- Writeback: destinations 7 and 8, and every instruction that retires. -/
theorem test_hyp_writeback :
    (InStage .writeback (.add 1 2 7) (inWriteback (.add 1 2 7)) ∧ (7 : BitVec 16).toNat ≤ 7) ∧
    (InStage .writeback (.add 1 2 8) (inWriteback (.add 1 2 8)) ∧ 7 < (8 : BitVec 16).toNat) ∧
    InStage .writeback (.nor 1 2 7) (inWriteback (.nor 1 2 7)) ∧
    InStage .writeback (.nor 1 2 8) (inWriteback (.nor 1 2 8)) ∧
    InStage .writeback (.lw 1 0 3) (inWriteback (.lw 1 0 3)) ∧
    InStage .writeback (.sw 1 2 3) (inWriteback (.sw 1 2 3)) ∧
    InStage .writeback (.beq 1 2 3) (inWriteback (.beq 1 2 3)) ∧
    InStage .writeback (.noop 9) (inWriteback (.noop 9)) ∧
    stageWord .writeback (inWriteback (.halt 9)) = encode (.halt 9) := by decide

/-- IllFormedExactlyWhenDestinationFaults: both sides, and a stage that is not writeback. -/
theorem test_hyp_reserved :
    InStage .writeback (.nor 1 2 8) (inWriteback (.nor 1 2 8)) ∧ (Instr.nor 1 2 8).wellFormed = false ∧
    InStage .writeback (.nor 1 2 7) (inWriteback (.nor 1 2 7)) ∧ (Instr.nor 1 2 7).wellFormed = true ∧
    (inExecute (.nor 1 2 8)).stage ≠ .writeback := by decide

/-- Writeback: jalr under both modes. -/
theorem test_hyp_writeback_jalr :
    (InStage .writeback (.jalr 1 2 3) (inWriteback (.jalr 1 2 3)) ∧
      (inWriteback (.jalr 1 2 3)).params.jalrMode = .noop) ∧
    (InStage .writeback (.jalr 1 2 3) (strict (inWriteback (.jalr 1 2 3))) ∧
      (strict (inWriteback (.jalr 1 2 3))).params.jalrMode = .faultAtWriteback) := by decide

/-- An ILLEGAL word in the three pipeline registers that the stages read. -/
def illegalEverywhere : State :=
  { State.reset with
    idex := ⟨0xFFFFFFFF, 0, 0, 0, 0⟩, exmem := ⟨0x02000000, 0, true, 4, 0⟩, memwb := ⟨0x80000000, 6⟩ }

/-- IllegalWordHasNoEffectOrFaults, every stage and both modes. -/
theorem test_hyp_illegal : (∀ k, opname (stageWord k illegalEverywhere) = .illegal) ∧
    illegalEverywhere.params.illegalOpMode = .noop ∧
    (strict illegalEverywhere).params.illegalOpMode = .faultAtWriteback :=
  ⟨fun k => by cases k <;> decide, by decide, by decide⟩

/-- InstructionFrame: a store, which leaves r3 and address 12 alone, and a branch that redirects. -/
theorem test_hyp_frame :
    (inMemory (.sw 0 4 11) 11 false 6).dmem.wf = true ∧
    isNext (exec (.sw 0 4 11) (inMemory (.sw 0 4 11) 11 false 6)) = true ∧
    storesTo (.sw 0 4 11) (inMemory (.sw 0 4 11) 11 false 6) = some 11 ∧
    writesReg (.lw 1 0 3) (inWriteback (.lw 1 0 3)) = some 0 ∧
    redirects (.beq 0 0 1) (inMemory (.beq 0 0 1) 0 true 0) = true ∧
    redirects (.beq 0 0 1) (inMemory (.beq 0 0 1) 0 false 0) = false := by decide

/-- StepRunsTheDecodedInstructions: each stage's word decodes, or is rejected. -/
theorem test_hyp_decoded_stages :
    decode (stageWord .execute collision) = .ok (.lw 0 1 6) ∧ decode (stageWord .memory collision) = .ok (.beq 0 0 2) ∧
    decode (stageWord .writeback collision) = .ok (.noop 0) ∧ opname collision.memwb.instr ≠ .halt ∧
    decode (stageWord .execute illegalEverywhere) = .error (.illegalOpcode 0xFFFFFFFF) := by decide

/-- StepAnswersWhereNothingIsRaised, and the hypotheses 'not halted' and 'answers a next state' of the stage
statements, with an lw, an sw, a beq and an add in EX/MEM. -/
theorem test_hyp_step_next :
    (writebackFault collision = none ∧ memoryFault collision = none ∧ fetchFault collision = none) ∧
    isNext (step collision) = true ∧
    isNext (step (inMemory (.lw 0 1 10) 10 false 0)) = true ∧ isNext (step (inMemory (.sw 0 4 11) 11 false 6)) = true ∧
    isNext (step (inMemory (.beq 0 0 1) 0 true 0)) = true ∧ isNext (step (inMemory (.add 1 2 3) 0 false 0)) = true ∧
    opname (inMemory (.add 1 2 3) 0 false 0).memwb.instr ≠ .halt := by decide

/-- WritebackByOpcode: every opcode that can stand in MEM/WB, its faults included. -/
theorem test_hyp_writeback_step :
    isNext (step (inWriteback (.add 1 2 7))) = true ∧ isNext (step (inWriteback (.nor 1 2 0))) = true ∧
    isNext (step (inWriteback (.lw 1 0 3))) = true ∧ isNext (step (inWriteback (.sw 1 2 3))) = true ∧
    isNext (step (inWriteback (.beq 1 2 3))) = true ∧ isNext (step (inWriteback (.noop 9))) = true ∧
    isNext (step (inWriteback (.jalr 1 2 3))) = true ∧ isNext (step (inWriteback (.nor 1 2 8))) = false ∧
    isNext (step (strict (inWriteback (.jalr 1 2 3)))) = false ∧ isNext (step illegalEverywhere) = true ∧
    isNext (step (strict illegalEverywhere)) = false := by decide

/-- FetchAdvancesUnlessHeld: neither stall nor squash, a stall alone, a squash. -/
theorem test_hyp_fetch :
    (stall State.reset = false ∧ squash State.reset = false ∧ isNext (step State.reset) = true) ∧
    (stall (pair (.lw 0 1 0) (.add 1 1 2)) = true ∧ squash (pair (.lw 0 1 0) (.add 1 1 2)) = false ∧
      isNext (step (pair (.lw 0 1 0) (.add 1 1 2))) = true) ∧
    (squash collision = true ∧ isNext (step collision) = true) := by decide

/-- LoadUseStallsExactlyOneCycle, by field0 alone and by field1 alone. -/
theorem test_hyp_load_use :
    (opname (pair (.lw 0 1 0) (.add 1 2 2)).idex.instr = .lw ∧
      field0 (pair (.lw 0 1 0) (.add 1 2 2)).ifid.instr = field1 (pair (.lw 0 1 0) (.add 1 2 2)).idex.instr ∧
      opname (pair (.lw 0 1 0) (.add 1 2 2)).exmem.instr ≠ .beq ∧
      isNext (step (pair (.lw 0 1 0) (.add 1 2 2))) = true) ∧
    (field1 (pair (.lw 0 1 0) (.add 2 1 2)).ifid.instr = field1 (pair (.lw 0 1 0) (.add 2 1 2)).idex.instr ∧
      isNext (step (pair (.lw 0 1 0) (.add 2 1 2))) = true) := by decide

/-- TakenBranchSquashesThree and SquashOverridesStall. -/
theorem test_hyp_taken : opname collision.memwb.instr ≠ .halt ∧ stall collision = true ∧
    opname collision.exmem.instr = .beq ∧ collision.exmem.eq = true ∧ isNext (step collision) = true ∧
    produces collision.memwb.instr 3 = false := by decide

/-- ForwardingNearestProducerWins: a producer of each kind. -/
theorem test_hyp_produces : produces (encode (.add 0 0 7)) 7 = true ∧ produces (encode (.nor 0 0 0)) 0 = true ∧
    produces (encode (.lw 0 5 3)) 5 = true ∧ produces (encode (.add 0 0 8)) 0 = false ∧
    produces (encode (.sw 0 5 3)) 5 = false := by decide

/-- AnyRegisterMayBeWritten: r0 and r7 by an lw, r7 by an add, r0 by a nor, and a register that is not written. -/
theorem test_hyp_any_register :
    WritesBack (inWriteback (.lw 1 0 3)).memwb.instr 0 ∧ WritesBack (inWriteback (.add 1 2 7)).memwb.instr 7 ∧
    WritesBack (inWriteback (.nor 1 2 0)).memwb.instr 0 ∧ ¬ WritesBack (inWriteback (.add 1 2 8)).memwb.instr 0 ∧
    ¬ WritesBack (inWriteback (.sw 1 2 3)).memwb.instr 2 ∧
    isNext (step (inWriteback (.lw 1 0 3))) = true ∧
    (nextOr State.reset (step (inWriteback (.lw 1 0 3)))).reg.read 0 = 12 ∧
    (nextOr State.reset (step (inWriteback (.add 1 2 7)))).reg.read 7 = 12 := by decide

/-- An sw in EX/MEM with, behind it in ID/EX, an lw of the same address 12 (base 5 and offset 7). -/
def storeThenLoad : State :=
  { inMemory (.sw 0 4 11) 12 false 6 with idex := ⟨encode (.lw 1 2 7), 0, 5, 0, 7⟩ }

/-- StoreThenLoadReturnsStoredWord, hypotheses and outcome. -/
theorem test_hyp_store_load :
    storeThenLoad.dmem.wf = true ∧ opname storeThenLoad.memwb.instr ≠ .halt ∧ opname storeThenLoad.exmem.instr = .sw ∧
    isNext (step storeThenLoad) = true ∧
    opname (nextOr State.reset (step storeThenLoad)).exmem.instr = .lw ∧
    (nextOr State.reset (step storeThenLoad)).exmem.aluResult = storeThenLoad.exmem.aluResult ∧
    isNext (step (nextOr State.reset (step storeThenLoad))) = true ∧
    (nextOr State.reset (step (nextOr State.reset (step storeThenLoad)))).memwb.writeData = 6 := by decide

/-- PlacedWordIsFetchedNext, from a state with a halt in MEM/WB. -/
theorem test_hyp_placed_fetch :
    (inWriteback (.halt 0)).imem.wf = true ∧
    addressValid (inWriteback (.halt 0)).params (inWriteback (.halt 0)).pc = true ∧
    addressValid (inWriteback (.halt 0)).params ((inWriteback (.halt 0)).pc + 1) = true ∧
    (nextOr State.reset (step (placeAtFetch (inWriteback (.halt 0)) 0x00810000))).ifid.instr = 0x00810000 := by decide

/-- PlacedWordRunsNext, from that state and from reset: `lw 0 1 0` and `sw 0 0 3` (address 3) run at the next step. -/
theorem test_hyp_placed :
    isNext (step ((inWriteback (.halt 0)).withFetchWord 32 0x00810000)) = true ∧
    decode (BitVec.ofNat 32 0x00810000) = .ok (.lw 0 1 0) ∧
    (nextOr State.reset (step (State.reset.withFetchWord 32 0x00810000))).exmem.instr = 0x00810000 ∧
    (nextOr State.reset (step (State.reset.withFetchWord 32 0x00C00003))).exmem.aluResult = 3 := by decide

/-- StepKeepsMemoriesCanonical. -/
theorem test_hyp_memories : MemoriesOk (inMemory (.sw 0 4 11) 11 false 6) ∧
    isNext (step (inMemory (.sw 0 4 11) 11 false 6)) = true :=
  ⟨⟨by decide, by decide, by decide, by decide⟩, by decide⟩

/-- LoadedStateHasCanonicalMemories, an image that fills its memory. -/
theorem test_hyp_image_fits :
    ([5, 7] : List Word).length ≤ ({ defaultParams with memWords := 2 } : Params).memWords := by decide

/-- An add in ID/EX whose first operand a producer in WB/END wrote while it was being decoded (40 R83). -/
def distanceThree : State :=
  { State.reset with
    reg := State.reset.reg.write 1 10, idex := ⟨encode (.add 1 2 3), 5, 0, 0, 3⟩
    wbend := ⟨encode (.add 0 0 1), 10⟩, pc := 6 }

/-- StepKeepsThePipelineInvariant, ForwardedOperandsAreProgramOrderValues and CycleRefinesSequentialExecution. -/
theorem test_hyp_pipeline : PipelineInv distanceThree ∧ isNext (step distanceThree) = true ∧
    distanceThree.idex.instr ≠ noopWord ∧ (drain distanceThree).isSome = true :=
  ⟨⟨by decide, by decide, by decide, by decide⟩, by decide, by decide, by decide⟩

/-- HaltedCoreIsFullyDrained and StepKeepsStateExactlyWhenHalted. -/
theorem test_hyp_halted : opname (inWriteback (.halt 9)).memwb.instr = .halt := by decide

/-- HaltedRunAgreesWithSequentialExecution: 95 W3, the program of one halt ends in state 4 with pc 4. -/
theorem test_hyp_halted_run :
    (nextOr State.reset (runCycles 4 (loadImage defaultParams [0x01800000]))).runStatus = .halted ∧
    (nextOr State.reset (runCycles 4 (loadImage defaultParams [0x01800000]))).cycles = 4 ∧
    (nextOr State.reset (runCycles 4 (loadImage defaultParams [0x01800000]))).pc = 4 ∧
    isNext (runCycles 4 (loadImage defaultParams [0x01800000])) = true := by decide
end

/-! ## The step of a core that runs, and what no fault says -/

section
namespace Sys2Proof.Machine

/-- 41 R110, as a proposition. -/
theorem halted_iff {s : State} : halted s = true ↔ opname s.memwb.instr = .halt := by
  rw [halted, decide_eq_true_eq]

/-- A step of a core that is not halted answers `nextState`, and only where nothing is raised. -/
theorem step_next_of_running {s t : State} (running : opname s.memwb.instr ≠ .halt) (h : step s = .next t) :
    cycleFault s = none ∧ t = nextState s := by
  rcases step_next_cases h with ⟨hh, _⟩ | ⟨_, hf, ht⟩
  · exact absurd (halted_iff.mp hh) running
  · exact ⟨hf, ht⟩

/-- 60 R163: a cycle raises nothing exactly when no stage does. -/
theorem cycleFault_eq_none_iff {s : State} :
    cycleFault s = none ↔ writebackFault s = none ∧ memoryFault s = none ∧ fetchFault s = none := by
  simp only [cycleFault, Option.or_eq_none_iff]

/-- 20 R36: the memory stage raises nothing exactly when the address of its lw or sw, if it has one, is valid. -/
theorem memoryFault_eq_none_iff {s : State} :
    memoryFault s = none ↔
      (opname s.exmem.instr = .lw ∨ opname s.exmem.instr = .sw → addressValid s.params s.exmem.aluResult = true) := by
  unfold memoryFault
  cases h : opname s.exmem.instr <;> simp [addressValid_iff]

/-- 30 R55: where writeback raises nothing, an add or nor names a register that exists. -/
theorem field2_le_of_writebackFault_eq_none {s : State} (h : writebackFault s = none)
    (rClass : opname s.memwb.instr = .add ∨ opname s.memwb.instr = .nor) : (field2 s.memwb.instr).toNat ≤ 7 := by
  unfold writebackFault at h
  rcases rClass with e | e <;> simpa [e] using h

end Sys2Proof.Machine
end

/-! ## The memories over a step and after a load (10 R14, R15) -/

section
namespace Sys2Proof.Machine

/-- 41 R99: data memory changes only by an sw, by its store. -/
theorem dmemTable_cases (s : State) :
    dmemTable s = s.dmem ∨
      (opname s.exmem.instr = .sw ∧ dmemTable s = s.dmem.write s.exmem.aluResult.toNat s.exmem.valB) := by
  unfold dmemTable
  cases h : opname s.exmem.instr
  case sw => exact .inr ⟨rfl, rfl⟩
  all_goals exact .inl rfl

/-- The next state's data memory is canonical and within `MEM_WORDS`, since the range check of 20 R36 bounds a store. -/
theorem memoriesOk_nextState {s : State} (ok : MemoriesOk s) (noFault : memoryFault s = none) :
    MemoriesOk (nextState s) := by
  obtain ⟨imemWf, dmemWf, imemWithin, dmemWithin⟩ := ok
  suffices dmemOk : (dmemTable s).wf = true ∧ (dmemTable s).within s.params.memWords = true from
    ⟨imemWf, dmemOk.1, imemWithin, dmemOk.2⟩
  rcases dmemTable_cases s with e | ⟨isSw, e⟩ <;> rw [e]
  · exact ⟨dmemWf, dmemWithin⟩
  · have inRange := addressValid_lt (memoryFault_eq_none_iff.mp noFault (.inr isSw))
    exact ⟨memory_wf_write _ _ dmemWf, memory_within_write _ dmemWithin inRange⟩

/-- Settles O44: a halted core keeps its state, and any other step is `nextState` with no fault in its memory stage. -/
theorem stepKeepsMemoriesCanonical : Obligations.StepKeepsMemoriesCanonical := by
  intro s t ok h
  rcases step_next_cases h with ⟨_, rfl⟩ | ⟨_, noFault, rfl⟩
  · exact ok
  · exact memoriesOk_nextState ok (cycleFault_eq_none_iff.mp noFault).2.1

/-- An image lists only the addresses it fills. -/
theorem imageMemory_within {a n : Nat} {image : List Word} (fits : a + image.length ≤ n) :
    (imageMemory a image).within n = true := by
  induction image generalizing a with
  | nil => rfl
  | cons w rest ih =>
    rw [List.length_cons] at fits
    exact memory_within_cons w (ih (by omega)) (by omega)

/-- 70 R182(f): data memory after a load is the image's or empty, canonical and within `MEM_WORDS` either way. -/
theorem initialDmem_wf_within (mode : DmemInit) {image : List Word} {n : Nat} (fits : image.length ≤ n) :
    (initialDmem mode image).wf = true ∧ (initialDmem mode image).within n = true := by
  cases mode with
  | image => exact ⟨imageMemory_wfFrom 0 image, imageMemory_within (by omega)⟩
  | zero => exact ⟨rfl, rfl⟩

/-- Settles O45, from the two memories that the image builds. -/
theorem loadedStateHasCanonicalMemories : Obligations.LoadedStateHasCanonicalMemories := by
  intro p image fits
  have imemWithin : (imageMemory 0 image).within p.memWords = true := imageMemory_within (by omega)
  obtain ⟨dmemWf, dmemWithin⟩ := initialDmem_wf_within p.dmemInit fits
  exact ⟨imageMemory_wfFrom 0 image, dmemWf, imemWithin, dmemWithin⟩

end Sys2Proof.Machine
end

/-! ## The registers over a step, and what a cycle keeps -/

section
namespace Sys2Proof.Machine

/-- A 16-bit destination that exists is the register of that number (30 R55). -/
theorem eq_setWidth_iff_toNat_eq {d : BitVec 16} {r : Reg} (le : d.toNat ≤ 7) :
    r = d.setWidth 3 ↔ d.toNat = r.toNat := by
  rw [← BitVec.toNat_inj, BitVec.toNat_setWidth, Nat.mod_eq_of_lt (by omega)]
  exact eq_comm

/-- 41 R100: where writeback raises nothing, a register reads the word written to it, and its old value otherwise. -/
theorem regTable_read {s : State} (noFault : writebackFault s = none) (r : Reg) :
    (regTable s).read r = if WritesBack s.memwb.instr r then s.memwb.writeData else s.reg.read r := by
  have destExists := field2_le_of_writebackFault_eq_none noFault
  obtain ⟨o, h⟩ : ∃ o, opname s.memwb.instr = o := ⟨_, rfl⟩
  cases o
  case add | nor =>
    simp [regTable, WritesBack, h, regFile_read_write, eq_setWidth_iff_toNat_eq (destExists (by simp [h]))]
  case lw => simp [regTable, WritesBack, h, regFile_read_write, eq_comm]
  all_goals simp [regTable, WritesBack, h]

/-- 10 R12, over any step, a halted core's own included. -/
theorem step_reg_read {s t : State} (h : step s = .next t) (r : Reg) :
    t.reg.read r = if WritesBack s.memwb.instr r then s.memwb.writeData else s.reg.read r := by
  rcases step_next_cases h with ⟨isHalted, rfl⟩ | ⟨_, noFault, rfl⟩
  · simp [WritesBack, halted_iff.mp isHalted]
  · exact regTable_read (cycleFault_eq_none_iff.mp noFault).1 r

/-- Settles O40: Decode reads the register file itself, so what a register reads is what Decode latches. -/
theorem anyRegisterMayBeWritten : Obligations.AnyRegisterMayBeWritten := by
  intro s t r h
  have read := step_reg_read h r
  constructor
  · intro writes
    rw [if_pos writes] at read
    refine ⟨read, fun w pcPlus1 => ⟨?_, ?_⟩⟩ <;> rintro rfl <;> exact read
  · intro keeps
    rwa [if_neg keeps] at read

/-- Settles O41: the four fields are `nextState`'s own. -/
theorem cycleCountsAndKeepsCode : Obligations.CycleCountsAndKeepsCode := by
  intro s t running h
  obtain ⟨_, rfl⟩ := step_next_of_running running h
  exact ⟨rfl, rfl, rfl, rfl⟩

end Sys2Proof.Machine
end

/-! ## Valid addresses, and lw and sw stage by stage (20 R31, R36; 43 R130, R131) -/

section
namespace Sys2Proof.Machine

/-- Settles O13: at most 2^31 words (92 D1) leave every word index a nonnegative signed number. -/
theorem addressValidityIsAnUnsignedRange : Obligations.AddressValidityIsAnUnsignedRange := by
  rintro p a ⟨_, atMost⟩
  refine ⟨addressValid_lt, fun lt => addressValid_iff.mpr ?_⟩
  have toInt_eq : a.toInt = a.toNat := BitVec.toInt_eq_toNat_of_lt (by omega)
  omega

/-- 20 R36, 60 R162 code 2: a data access out of range raises, with the address in the fault. -/
theorem dataAccess_of_outOfRange {s : State} (access : Nat → State)
    (h : s.exmem.aluResult.toInt < 0 ∨ s.params.memWords ≤ s.exmem.aluResult.toInt) :
    dataAccess s access = .fault (.dataAddressFault s.exmem.aluResult s.cycles) :=
  if_neg (by rw [addressValid_iff]; omega)

theorem dataAccess_of_inRange {s : State} (access : Nat → State)
    (nonneg : 0 ≤ s.exmem.aluResult.toInt) (lt : s.exmem.aluResult.toInt < s.params.memWords) :
    dataAccess s access = .next (access s.exmem.aluResult.toNat) :=
  if_pos (addressValid_iff.mpr ⟨nonneg, lt⟩)

/-- 41 R97: the execute stage of a word given by its fields forwards to the two registers that the fields name. -/
theorem latchExecute_of_enc {s : State} {o : BitVec 10} {a b : Reg} {c : BitVec 16} (alu : Word)
    (h : s.idex.instr = enc o a b c) :
    latchExecute alu s = { s with
      exmem := {
        instr := enc o a b c
        branchTarget := s.idex.pcPlus1 + s.idex.offset
        eq := forward s a s.idex.valA == forward s b s.idex.valB
        aluResult := alu
        valB := forward s b s.idex.valB } } := by
  simp only [latchExecute, operandA, operandB, h, field0_enc, field1_enc]
  rfl

/-- 43 R130, R131: the effective address of a word given by its fields. -/
theorem aluAddress_of_enc {s : State} {o : BitVec 10} {a b : Reg} {c : BitVec 16} (h : s.idex.instr = enc o a b c) :
    aluAddress s = forward s a s.idex.valA + s.idex.offset := by
  rw [aluAddress, operandA, h, field0_enc]

/-! ### lw (43 R130) -/

theorem exec_lw_execute {s : State} (h : s.stage = .execute) (a b : Reg) (o : BitVec 16) :
    exec (.lw a b o) s = .next (latchExecute (aluAddress s) s) := by
  rw [exec, execLw, h]

theorem exec_lw_memory {s : State} (h : s.stage = .memory) (a b : Reg) (o : BitVec 16) :
    exec (.lw a b o) s = dataAccess s fun x => latchMemory (s.dmem.read x) s := by
  rw [exec, execLw, h]

theorem exec_lw_writeback {s : State} (h : s.stage = .writeback) (a b : Reg) (o : BitVec 16) :
    exec (.lw a b o) s = .next (retireTo b s) := by
  rw [exec, execLw, h]

/-- Settles O17, stage by stage: the address, the load where the address is in range and the fault where it is not, and
the register write. -/
theorem lwRunsItsThreeStages : Obligations.LwRunsItsThreeStages := by
  intro a b o s
  refine ⟨?execute, ?load, ?outOfRange, ?writeback⟩
  case execute =>
    rintro ⟨stage, word⟩
    rw [exec_lw_execute stage, latchExecute_of_enc _ word, aluAddress_of_enc word]
    rfl
  case load =>
    rintro ⟨stage, word⟩ nonneg lt
    rw [exec_lw_memory stage, dataAccess_of_inRange _ nonneg lt, ← word]
    rfl
  case outOfRange =>
    rintro ⟨stage, _⟩ out
    rw [exec_lw_memory stage, dataAccess_of_outOfRange _ out]
  case writeback =>
    rintro ⟨stage, word⟩
    rw [exec_lw_writeback stage, ← word]
    rfl

/-! ### sw (43 R131) -/

theorem exec_sw_execute {s : State} (h : s.stage = .execute) (a b : Reg) (o : BitVec 16) :
    exec (.sw a b o) s = .next (latchExecute (aluAddress s) s) := by
  rw [exec, execSw, h]

theorem exec_sw_memory {s : State} (h : s.stage = .memory) (a b : Reg) (o : BitVec 16) :
    exec (.sw a b o) s = dataAccess s fun x => (latchMemoryKept s).setDmem (s.dmem.write x s.exmem.valB) := by
  rw [exec, execSw, h]

theorem exec_sw_writeback {s : State} (h : s.stage = .writeback) (a b : Reg) (o : BitVec 16) :
    exec (.sw a b o) s = .next (retire s) := by
  rw [exec, execSw, h]

/-- Settles O18, stage by stage: the address, the store where the address is in range and the fault where it is not, and
the retirement. -/
theorem swRunsItsThreeStages : Obligations.SwRunsItsThreeStages := by
  intro a b o s
  refine ⟨?execute, ?store, ?outOfRange, ?writeback⟩
  case execute =>
    rintro ⟨stage, word⟩
    rw [exec_sw_execute stage, latchExecute_of_enc _ word, aluAddress_of_enc word]
    rfl
  case store =>
    rintro ⟨stage, word⟩ nonneg lt
    rw [exec_sw_memory stage, dataAccess_of_inRange _ nonneg lt, ← word]
    rfl
  case outOfRange =>
    rintro ⟨stage, _⟩ out
    rw [exec_sw_memory stage, dataAccess_of_outOfRange _ out]
  case writeback =>
    rintro ⟨stage, word⟩
    rw [exec_sw_writeback stage, ← word]
    rfl

end Sys2Proof.Machine
end

/-! ## The memory stage of a cycle (41 R99), and a load behind a store (20 R38) -/

section
namespace Sys2Proof.Machine

/-- Settles O30: the latch and data memory are the tables of 41 R99, and no fault means a valid address. -/
theorem memoryStageByOpcode : Obligations.MemoryStageByOpcode := by
  intro s t running h
  obtain ⟨noFault, rfl⟩ := step_next_of_running running h
  have valid := memoryFault_eq_none_iff.mp (cycleFault_eq_none_iff.mp noFault).2.1
  refine ⟨rfl, ?lw, ?sw, ?beq, ?others⟩
  case lw =>
    intro isLw
    simp [nextState, writeDataTable, dmemTable, isLw, valid (.inl isLw)]
  case sw =>
    intro isSw
    simp [nextState, writeDataTable, dmemTable, isSw, valid (.inr isSw)]
  case beq =>
    intro isBeq
    simp [nextState, writeDataTable, dmemTable, isBeq]
  case others =>
    intro notLw notSw notBeq
    cases e : opname s.exmem.instr
    case lw | sw | beq => contradiction
    all_goals simp [nextState, writeDataTable, dmemTable, e]

/-- Settles O42: the store is in data memory when the load behind it reads there. -/
theorem storeThenLoadReturnsStoredWord : Obligations.StoreThenLoadReturnsStoredWord := by
  intro s t u dmemWf running isSw st isLw sameAddress tu
  obtain ⟨movesOn, -, store, -, -⟩ := memoryStageByOpcode s t running st
  obtain ⟨-, stored, -⟩ := store isSw
  have running' : opname t.memwb.instr ≠ .halt := by simp [movesOn, isSw]
  obtain ⟨-, load, -, -, -⟩ := memoryStageByOpcode t u running' tu
  obtain ⟨loaded, kept, -⟩ := load isLw
  refine ⟨?_, kept⟩
  rw [loaded, stored, sameAddress, memory_read_write _ _ _ dmemWf, if_pos rfl]

end Sys2Proof.Machine
end

/-! ## The pipeline against sequential execution (40 R84, 70 R190) -/

section
namespace Sys2Proof.Machine

/-! ### Forwarding against writing back (40 R73, R74) -/

/-- 40 R73: a word produces exactly the register that its writeback writes (41 R100). -/
theorem produces_iff_writesBack {w : Word} {r : Reg} : produces w r = true ↔ WritesBack w r := by
  have widened (q : Reg) : (q.setWidth 16).toNat = q.toNat := BitVec.toNat_setWidth_of_le (by omega)
  cases h : opname w <;>
    simp [produces, producerDest, WritesBack, h, ← BitVec.toNat_inj, widened, -BitVec.toNat_setWidth]

/-- One check of 40 R74, against a word in MEM/WB that raises nothing, gives what the register holds once that word has
written back. -/
theorem substitute_memwb_read {s : State} (noFault : writebackFault s = none) (r : Reg) :
    substitute s.memwb.instr s.memwb.writeData r (s.reg.read r) = (regTable s).read r := by
  rw [regTable_read noFault, substitute]
  exact if_congr produces_iff_writesBack rfl rfl

/-- One check of 40 R74, against an add or nor whose destination exists. -/
theorem read_of_writeRClass {a b : Arch} {w v : Word} (rClass : opname w = .add ∨ opname w = .nor)
    (h : a.writeRClass w v = some b) (r : Reg) : b.reg.read r = substitute w v r (a.reg.read r) := by
  unfold Arch.writeRClass at h
  split at h
  case isFalse => cases h
  case isTrue le =>
    cases h
    have notLw : opname w ≠ .lw := by rcases rClass with e | e <;> simp [e]
    rw [regFile_read_write, substitute]
    refine if_congr ?_ rfl rfl
    rw [produces_iff_writesBack, eq_setWidth_iff_toNat_eq le]
    simp [WritesBack, rClass, notLw]

/-! ### The word in MEM/WB -/

/-- What the word in MEM/WB does to the architectural state when it writes back (41 R100); none where it faults. -/
def completeMemwb (s : State) (a : Arch) : Option Arch :=
  match opname s.memwb.instr with
  | .add | .nor => a.writeRClass s.memwb.instr s.memwb.writeData
  | .lw => some { a with reg := a.reg.write (field1 s.memwb.instr) s.memwb.writeData }
  | .jalr => if s.params.jalrMode = .noop then some a else none
  | .illegal => if s.params.illegalOpMode = .noop then some a else none
  | .sw | .beq | .halt | .noop => some a

theorem ite_some_none_bind {α β : Type} {c : Prop} [Decidable c] (a : α) (f : α → Option β) :
    (if c then some a else none).bind f = if c then f a else none := by
  split <;> rfl

/-- The word in MEM/WB completes first. -/
theorem drain_eq_bind {s : State} (running : opname s.memwb.instr ≠ .halt) :
    drain s = (completeMemwb s ⟨none, s.reg, s.dmem⟩).bind (drainExmem s) := by
  unfold drain completeMemwb
  cases h : opname s.memwb.instr
  case halt => exact absurd h running
  case jalr | illegal => exact (ite_some_none_bind _ _).symm
  all_goals rfl

/-- 41 R110: behind a halt in MEM/WB nothing counts. -/
theorem drain_of_halted {s : State} (isHalt : opname s.memwb.instr = .halt) : drain s = some ⟨none, s.reg, s.dmem⟩ := by
  rw [drain, isHalt]

/-- Where writeback raises nothing, the word in MEM/WB completes and leaves the table of 41 R100. -/
theorem completeMemwb_of_noFault {s : State} (noFault : writebackFault s = none) :
    completeMemwb s ⟨none, s.reg, s.dmem⟩ = some ⟨none, regTable s, s.dmem⟩ := by
  unfold writebackFault at noFault
  unfold completeMemwb regTable
  cases h : opname s.memwb.instr <;> simp only [h] at noFault ⊢
  case add | nor => exact if_pos (by simpa using noFault)
  case jalr => cases m : s.params.jalrMode <;> simp_all
  case illegal => cases m : s.params.illegalOpMode <;> simp_all

/-! ### The word in EX/MEM -/

/-- What the word in EX/MEM does to the architectural state, from its latched results (41 R99, R100); none where it
faults. -/
def completeExmem (s : State) (a : Arch) : Option Arch :=
  match opname s.exmem.instr with
  | .add | .nor => a.writeRClass s.exmem.instr s.exmem.aluResult
  | .lw => (a.load s.params s.exmem.aluResult).map fun v => { a with reg := a.reg.write (field1 s.exmem.instr) v }
  | .sw => a.store s.params s.exmem.aluResult s.exmem.valB
  | .jalr => if s.params.jalrMode = .noop then some a else none
  | .illegal => if s.params.illegalOpMode = .noop then some a else none
  | .beq | .halt | .noop => some a

/-- Unless it is a halt or a taken branch, the word in EX/MEM completes before those behind it. -/
theorem drainExmem_eq_bind {s : State} (notHalt : opname s.exmem.instr ≠ .halt) (notTaken : squash s = false)
    (a : Arch) : drainExmem s a = (completeExmem s a).bind (drainIdex s) := by
  unfold drainExmem completeExmem
  cases h : opname s.exmem.instr
  case halt => exact absurd h notHalt
  case beq => simp [show s.exmem.eq = false by simpa [squash, h] using notTaken]
  case lw => simp only [Option.bind_map]; rfl
  case jalr | illegal => exact (ite_some_none_bind _ _).symm
  all_goals rfl

theorem drainExmem_of_halt {s : State} (isHalt : opname s.exmem.instr = .halt) (a : Arch) :
    drainExmem s a = some { a with next := none } := by
  rw [drainExmem, isHalt]

/-- A taken branch in EX/MEM writes nothing, and the sequence goes on at its target. -/
theorem completeExmem_drainExmem_of_squash {s : State} (taken : squash s = true) (a : Arch) :
    completeExmem s a = some a ∧ drainExmem s a = some { a with next := some s.exmem.branchTarget } := by
  obtain ⟨isBeq, eq⟩ : opname s.exmem.instr = .beq ∧ s.exmem.eq = true := by simpa [squash] using taken
  constructor
  · rw [completeExmem, isBeq]
  · rw [drainExmem, isBeq]
    exact if_pos eq

/-- Over a cycle that raises nothing the word in EX/MEM moves to MEM/WB with what it has left to write, so that it
completes alike. -/
theorem completeMemwb_nextState {s : State} (noFault : memoryFault s = none) :
    completeMemwb (nextState s) ⟨none, regTable s, dmemTable s⟩ = completeExmem s ⟨none, regTable s, s.dmem⟩ := by
  have valid := memoryFault_eq_none_iff.mp noFault
  unfold completeMemwb completeExmem
  cases h : opname s.exmem.instr
  case lw => simp [nextState, writeDataTable, dmemTable, h, Arch.load, valid (.inl h)]
  case sw => simp [nextState, writeDataTable, dmemTable, h, Arch.store, valid (.inr h)]
  all_goals simp [nextState, writeDataTable, dmemTable, h]

/-- 40 R74, R82: a register that a load in EX/MEM does not write reads, once the word there has completed, what the check
of EX/MEM forwards. -/
theorem read_of_completeExmem {s : State} {a b : Arch} {r : Reg} (h : completeExmem s a = some b)
    (notLoaded : opname s.exmem.instr ≠ .lw ∨ r ≠ field1 s.exmem.instr) :
    b.reg.read r = substitute s.exmem.instr s.exmem.aluResult r (a.reg.read r) := by
  have kept (notRClass : ¬ (opname s.exmem.instr = .add ∨ opname s.exmem.instr = .nor)) :
      substitute s.exmem.instr s.exmem.aluResult r (a.reg.read r) = a.reg.read r := by
    refine if_neg ?_
    rw [produces_iff_writesBack]
    rintro (⟨rClass, -⟩ | ⟨isLw, rfl⟩)
    · exact notRClass rClass
    · exact notLoaded.elim (absurd isLw) (absurd rfl)
  unfold completeExmem Arch.load Arch.store at h
  cases e : opname s.exmem.instr <;> simp only [e] at h
  case add | nor => exact read_of_writeRClass (by simp [e]) h r
  all_goals rw [kept (by simp [e])]
  case lw =>
    obtain ⟨v, -, rfl⟩ := Option.map_eq_some_iff.mp h
    exact regFile_read_write_ne _ _ (by simpa [e] using notLoaded)
  case sw | jalr | illegal =>
    split at h <;> cases h
    rfl
  all_goals cases h; rfl

/-! ### The words behind it -/

/-- One instruction, and then `rest` unless it leaves the sequence. -/
def completeThen (p : Params) (w pcPlus1 : Word) (rest : Arch → Option Arch) (a : Arch) : Option Arch :=
  (architecturalEffect p w pcPlus1 a).bind fun b => if leavesSequence w a then some b else rest b

theorem drainIdex_eq (s : State) (a : Arch) :
    drainIdex s a = completeThen s.params s.idex.instr s.idex.pcPlus1 (drainIfid s) a := rfl

theorem drainIfid_eq (s : State) (a : Arch) :
    drainIfid s a =
      completeThen s.params s.ifid.instr s.ifid.pcPlus1 (fun b => some { b with next := some s.pc }) a := by
  rw [drainIfid, Option.map_eq_bind, completeThen]
  congr 1
  funext b
  exact apply_ite some _ _ _

theorem completeThen_noopWord (p : Params) (pcPlus1 : Word) (rest : Arch → Option Arch) (a : Arch) :
    completeThen p noopWord pcPlus1 rest a = rest { a with next := some pcPlus1 } := by
  simp [completeThen, architecturalEffect, leavesSequence, opname_noopWord]

/-- No instruction's effect depends on where the sequence was to go on before it. -/
theorem drainIfid_next (s : State) (a : Arch) (n : Option Word) : drainIfid s { a with next := n } = drainIfid s a := rfl

theorem drainIdex_next (s : State) (a : Arch) (n : Option Word) : drainIdex s { a with next := n } = drainIdex s a := rfl

/-- 40 R84: ID/EX holds a bubble, or an instruction whose forwarded operands are the registers' values in `a` and whose
offset is its own. -/
def OperandsReadFrom (s : State) (a : Arch) : Prop :=
  s.idex.instr = noopWord ∨
    (operandA s = a.reg.read (field0 s.idex.instr) ∧ operandB s = a.reg.read (field1 s.idex.instr) ∧
      s.idex.offset = offset s.idex.instr)

/-- Where the operands in ID/EX are the registers' values, the next state's EX/MEM holds all that is left of the word's
effect. -/
theorem drainExmem_nextState {s : State} {b : Arch} (notTaken : squash s = false)
    (operands : OperandsReadFrom s b) :
    drainExmem (nextState s) b =
      completeThen s.params s.idex.instr s.idex.pcPlus1 (drainIdex (nextState s)) b := by
  have movesOn : (nextState s).exmem.instr = s.idex.instr := by simp [nextState, notTaken]
  rcases operands with bubble | ⟨operandA_eq, operandB_eq, offset_eq⟩
  · rw [bubble, completeThen_noopWord, drainIdex_next, drainExmem, movesOn, bubble, opname_noopWord]
  · have alu : (nextState s).exmem.aluResult = aluTable s := rfl
    have valB : (nextState s).exmem.valB = operandB s := rfl
    have eq : (nextState s).exmem.eq = (operandA s == operandB s) := rfl
    have target : (nextState s).exmem.branchTarget = s.idex.pcPlus1 + s.idex.offset := rfl
    have params : (nextState s).params = s.params := rfl
    unfold drainExmem completeThen architecturalEffect leavesSequence Arch.writeRClass Arch.load Arch.store
    rw [movesOn, alu, valB, eq, target, params, aluTable, operandA_eq, operandB_eq, offset_eq]
    cases opname s.idex.instr <;> dsimp only
    case beq =>
      by_cases equal : b.reg.read (field0 s.idex.instr) = b.reg.read (field1 s.idex.instr)
      · simp [equal]
      · simp only [beq_eq_false_iff_ne.mpr equal, equal, if_false, Option.bind_some]
        rfl
    case halt | noop => rfl
    all_goals split <;> rfl

/-! ### One cycle -/

/-- What `o'` stands for is what `o` stands for, or that advanced by one instruction of sequential execution. -/
def KeepsOrAdvances (s : State) (o o' : Option Arch) : Prop :=
  o' = o ∨ o' = o.bind (sequentialStep s.params s.imem)

theorem keepsOrAdvances_bind {s : State} (o : Option Arch) {f g : Arch → Option Arch}
    (h : ∀ a, KeepsOrAdvances s (f a) (g a)) : KeepsOrAdvances s (o.bind f) (o.bind g) := by
  cases o with
  | none => exact .inl rfl
  | some a => exact h a

theorem keepsOrAdvances_completeThen {s : State} (p : Params) (w pcPlus1 : Word) {f g : Arch → Option Arch}
    (h : ∀ a, KeepsOrAdvances s (f a) (g a)) (a : Arch) :
    KeepsOrAdvances s (completeThen p w pcPlus1 f a) (completeThen p w pcPlus1 g a) := by
  refine keepsOrAdvances_bind _ fun b => ?_
  split
  · exact .inl rfl
  · exact h b

/-- An instruction that does not leave the sequence goes on behind itself. -/
theorem next_of_architecturalEffect {p : Params} {w pcPlus1 : Word} {a b : Arch}
    (h : architecturalEffect p w pcPlus1 a = some b) (stays : leavesSequence w a = false) : b.next = some pcPlus1 := by
  unfold architecturalEffect Arch.writeRClass Arch.load Arch.store at h
  unfold leavesSequence at stays
  cases e : opname w <;> simp only [e] at h stays
  case beq =>
    cases h
    exact congrArg some (if_neg (by simpa using stays))
  case halt => cases stays
  case noop => cases h; rfl
  all_goals
    split at h <;> cases h
    rfl

/-- The word just fetched completes as one instruction of sequential execution at the pc. -/
theorem drainIfid_fetched {s t : State} (valid : addressValid s.params s.pc = true) (params : t.params = s.params)
    (ifid : t.ifid = ⟨s.imem.read s.pc.toNat, s.pc + 1⟩) (pc : t.pc = s.pc + 1) (a : Arch) :
    drainIfid t a = sequentialStep s.params s.imem { a with next := some s.pc } := by
  have sequential : sequentialStep s.params s.imem { a with next := some s.pc } =
      architecturalEffect s.params (s.imem.read s.pc.toNat) (s.pc + 1) a := if_pos valid
  rw [sequential, drainIfid_eq, completeThen, params, ifid, pc]
  cases h : architecturalEffect s.params (s.imem.read s.pc.toNat) (s.pc + 1) a with
  | none => rfl
  | some b =>
    rw [Option.bind_some]
    split
    · rfl
    · next stays => rw [← next_of_architecturalEffect h (by simpa using stays)]

/-- The word in IF/ID and the fetch behind it: a stall holds them, and otherwise the fetch is one more instruction. -/
theorem keepsOrAdvances_drainIfid {s : State} (notTaken : squash s = false) (noFault : fetchFault s = none) (a : Arch) :
    KeepsOrAdvances s (drainIfid s a) (drainIdex (nextState s) a) := by
  cases stalls : stall s
  · have decoded : (nextState s).idex.instr = s.ifid.instr := by simp [nextState, notTaken, stalls]
    have valid : addressValid s.params s.pc = true := by
      rw [addressValid_iff]
      simpa [fetchFault, stalls, notTaken] using noFault
    rw [drainIfid_eq, drainIdex_eq, decoded]
    refine keepsOrAdvances_completeThen _ _ _ (fun b => .inr ?_) a
    have fetched : (nextState s).ifid = ⟨s.imem.read s.pc.toNat, s.pc + 1⟩ := by simp [nextState, notTaken, stalls]
    have pc : (nextState s).pc = s.pc + 1 := by simp [nextState, notTaken, stalls]
    exact drainIfid_fetched (t := nextState s) valid rfl fetched pc b
  · have bubble : (nextState s).idex.instr = noopWord := by simp [nextState, stalls]
    have held : (nextState s).ifid = s.ifid := by simp [nextState, notTaken, stalls]
    have pcHeld : (nextState s).pc = s.pc := by simp [nextState, notTaken, stalls]
    rw [drainIdex_eq, bubble, completeThen_noopWord, drainIfid_next, drainIfid_eq, drainIfid_eq, held, pcHeld]
    exact .inl rfl

/-- 40 R84: the invariant, the interlock's part in it included, makes forwarding give the values the registers have once the
words ahead have completed. -/
theorem operandsReadFrom_of_completeExmem {s : State} (inv : PipelineInv s) (noFault : writebackFault s = none) {b : Arch}
    (h : completeExmem s ⟨none, regTable s, s.dmem⟩ = some b) : OperandsReadFrom s b := by
  obtain ⟨loadNotAdjacent, valAFresh, valBFresh, offsetFresh⟩ := inv
  by_cases bubble : s.idex.instr = noopWord
  · exact .inl bubble
  · replace loadNotAdjacent := loadNotAdjacent.resolve_left bubble
    have fresh {r : Reg} {v : Word} (notLoaded : opname s.exmem.instr ≠ .lw ∨ r ≠ field1 s.exmem.instr)
        (h' : substitute s.wbend.instr s.wbend.writeData r v = s.reg.read r) : forward s r v = b.reg.read r := by
      rw [forward, h', substitute_memwb_read noFault, read_of_completeExmem h notLoaded]
    exact .inr ⟨fresh (loadNotAdjacent.imp_right And.left) (valAFresh.resolve_left bubble),
      fresh (loadNotAdjacent.imp_right And.right) (valBFresh.resolve_left bubble), offsetFresh.resolve_left bubble⟩

/-- A taken branch in EX/MEM leaves only bubbles behind it, and its target as the next address. -/
theorem drainExmem_nextState_of_squash {s : State} (taken : squash s = true) (a : Arch) :
    drainExmem (nextState s) a = some { a with next := some s.exmem.branchTarget } := by
  have exmem : (nextState s).exmem.instr = noopWord := by simp [nextState, taken]
  have idex : (nextState s).idex.instr = noopWord := by simp [nextState, taken]
  have ifid : (nextState s).ifid.instr = noopWord := by simp [nextState, taken]
  have pc : (nextState s).pc = s.exmem.branchTarget := by simp [nextState, taken]
  have passes : drainExmem (nextState s) a = drainIdex (nextState s) a := by
    rw [drainExmem, exmem, opname_noopWord]
  rw [passes, drainIdex_eq, idex, completeThen_noopWord, drainIfid_eq, ifid, completeThen_noopWord, pc]

/-- What a state stands for after a cycle that raises nothing: the word that was in EX/MEM completes first. -/
theorem drain_nextState {s : State} (notHalt : opname s.exmem.instr ≠ .halt) (noFault : memoryFault s = none) :
    drain (nextState s) = (completeExmem s ⟨none, regTable s, s.dmem⟩).bind (drainExmem (nextState s)) := by
  rw [← completeMemwb_nextState noFault]
  exact drain_eq_bind (s := nextState s) notHalt

/-- A cycle that runs: a halt or a taken branch in EX/MEM ends what the pipeline stands for, and any other word there
completes before the words behind it, which are kept or gain the word fetched. -/
theorem keepsOrAdvances_nextState {s : State} (inv : PipelineInv s) (running : opname s.memwb.instr ≠ .halt)
    (noFault : cycleFault s = none) : KeepsOrAdvances s (drain s) (drain (nextState s)) := by
  obtain ⟨noWriteback, noMemory, noFetch⟩ := cycleFault_eq_none_iff.mp noFault
  rw [drain_eq_bind running, completeMemwb_of_noFault noWriteback, Option.bind_some]
  by_cases isHalt : opname s.exmem.instr = .halt
  · have inMemwb : opname (nextState s).memwb.instr = .halt := isHalt
    have dmem : (nextState s).dmem = s.dmem := by simp [nextState, dmemTable, isHalt]
    rw [drainExmem_of_halt isHalt, drain_of_halted inMemwb, dmem]
    exact .inl rfl
  · rw [drain_nextState isHalt noMemory]
    cases taken : squash s
    · rw [drainExmem_eq_bind isHalt taken]
      cases completed : completeExmem s ⟨none, regTable s, s.dmem⟩ with
      | none => exact .inl rfl
      | some b =>
        rw [Option.bind_some, Option.bind_some, drainIdex_eq,
          drainExmem_nextState taken (operandsReadFrom_of_completeExmem inv noWriteback completed)]
        exact keepsOrAdvances_completeThen _ _ _ (keepsOrAdvances_drainIfid taken noFetch) b
    · obtain ⟨completed, drained⟩ := completeExmem_drainExmem_of_squash taken ⟨none, regTable s, s.dmem⟩
      rw [completed, drained, Option.bind_some, drainExmem_nextState_of_squash taken]
      exact .inl rfl

/-- Settles O49: a halted core keeps its state, and every other step is `nextState` with no fault. -/
theorem cycleRefinesSequentialExecution : Obligations.CycleRefinesSequentialExecution := by
  intro s t inv h
  rcases step_next_cases h with ⟨_, rfl⟩ | ⟨running, noFault, rfl⟩
  · exact .inl rfl
  · exact keepsOrAdvances_nextState inv (by simpa [halted] using running) noFault

end Sys2Proof.Machine
end

/-! ## The encoding and its inverse (30 R50 to R60) -/

section
namespace Sys2Proof

/-! ### The opcode selector (30 R51, R53) -/

/-- The selector bits that the opcode map of 30 R53 gives a name; for ILLEGAL, the first that it does not list. -/
def OpName.opcode : OpName → BitVec 10
  | .add => 0
  | .nor => 1
  | .lw => 2
  | .sw => 3
  | .beq => 4
  | .jalr => 5
  | .halt => 6
  | .noop => 7
  | .illegal => 8

/-- 30 R53: a selector that has a name is the one the map gives that name. -/
theorem opcode_opNameOf {v : Int} (legal : opNameOf v ≠ .illegal) : (opNameOf v).opcode.toInt = v := by
  unfold opNameOf at *
  split_ifs at *
  case neg => exact absurd rfl legal
  all_goals exact Eq.symm ‹v = _›

/-- 30 R53: the selectors without a name. -/
theorem opNameOf_eq_illegal_iff {v : Int} : opNameOf v = .illegal ↔ v < 0 ∨ 7 < v := by
  unfold opNameOf
  split_ifs
  case neg => simp only [true_iff]; omega
  all_goals simp only [false_iff]; omega

/-- w[31:25] is 0 exactly below 2^25. -/
theorem highBits_eq_zero_iff (w : Word) : w.extractLsb' 25 7 = 0 ↔ w.toNat < 2 ^ 25 := by
  rw [← BitVec.toNat_inj, BitVec.extractLsb'_toNat, Nat.shiftRight_eq_div_pow]
  change _ = 0 ↔ _
  omega

/-- 30 R54: a selector lies outside the map exactly when a bit above the three lowest is set. -/
theorem opname_eq_illegal_iff (w : Word) : opname w = .illegal ↔ w.extractLsb' 25 7 ≠ 0 := by
  rw [opname, opNameOf_eq_illegal_iff, op, BitVec.toInt_eq_toNat_cond, ne_eq, highBits_eq_zero_iff]
  split <;> omega

/-- Settles O4: the selector is a 10-bit two's-complement number, whose upper seven bits are w[31:25]. -/
theorem selectorIsSignedHighField : Obligations.SelectorIsSignedHighField := by
  intro w
  have lower : -2 ^ 9 ≤ op w := op_eq_field w ▸ BitVec.le_toInt _
  have upper : op w < 2 ^ 9 := op_eq_field w ▸ BitVec.toInt_lt
  refine ⟨op_eq_field w, lower, by omega, fun high => ?_⟩
  rw [highBits_eq_zero_iff] at high
  rw [op, BitVec.toInt_eq_toNat_of_lt (by omega), BitVec.extractLsb'_toNat, Nat.shiftRight_eq_div_pow]
  omega

/-! ### The decoder and the encoder (30 R51 to R54, R60) -/

/-- 30 R53, R60: an encoded word has its instruction's name. -/
theorem opname_encode (i : Instr) : opname (encode i) = i.opName := by
  cases i <;> exact (opname_enc _ _ _ _).trans rfl

/-- Settles O1: the word has its instruction's name, and each field is the operand it was made from. -/
theorem decodeOfEncodeIsIdentity : Obligations.DecodeOfEncodeIsIdentity := by
  intro i
  rw [decode, opname_encode]
  cases i
  case halt u | noop u => simp [Instr.opName, encode, low22_enc]
  all_goals simp [Instr.opName, encode]

/-- A word of the set is the opcode of its name and its three fields. -/
theorem enc_opcode_opname {w : Word} (legal : opname w ≠ .illegal) :
    enc (opname w).opcode (field0 w) (field1 w) (field2 w) = w := by
  have opcodeBits : w.extractLsb' 22 10 = (opname w).opcode :=
    BitVec.toInt_inj.mp ((op_eq_field w).symm.trans (opcode_opNameOf legal).symm)
  rw [← opcodeBits, enc_fields]

/-- Settles O2, opcode by opcode: the decoder keeps every bit below the opcode in an operand. -/
theorem encodeOfDecodeIsIdentity : Obligations.EncodeOfDecodeIsIdentity := by
  intro w i h
  have whole := @enc_opcode_opname w
  cases name : opname w <;> simp only [decode, name] at h whole
  case illegal => cases h
  case halt | noop =>
    cases h
    simpa [encode, OpName.opcode, field0, field1, field2, BitVec.extractLsb'_extractLsb'_of_le] using whole nofun
  all_goals
    cases h
    exact whole nofun

/-- 30 R54: the decoder rejects exactly the words that have no name. -/
theorem decode_eq_error_iff (w : Word) : decode w = .error (.illegalOpcode w) ↔ opname w = .illegal := by
  cases name : opname w <;> simp [decode, name]

/-- Settles O3: the decoder rejects the words without a name, those whose selector has a high bit set. -/
theorem decodeRejectsExactlyHighBits : Obligations.DecodeRejectsExactlyHighBits := fun w =>
  ⟨(decode_eq_error_iff w).trans (opname_eq_illegal_iff w), opname_eq_illegal_iff w⟩

/-- Settles O7, by evaluation of the decoder. -/
theorem writtenOutWordsDecode : Obligations.WrittenOutWordsDecode := by
  unfold Obligations.WrittenOutWordsDecode
  decide

/-! ### The opcode table's mask (30 R53) -/

/-- 30 R53: the mask keeps the opcode of an encoded word and clears its operands. -/
theorem enc_and_opcodeMask (o : BitVec 10) (a b : Reg) (c : BitVec 16) :
    enc o a b c &&& 0xFFC00000 = o.setWidth 32 <<< 22 := by
  simp only [enc]
  ext i h
  interval_cases i <;> simp

/-- 30 R53: the name of a word depends on the bits under the mask alone. -/
theorem opname_congr_of_and_opcodeMask {w v : Word} (h : w &&& 0xFFC00000 = v &&& 0xFFC00000) :
    opname w = opname v := by
  have unmasked (x : Word) : (x &&& 0xFFC00000).extractLsb' 22 10 = x.extractLsb' 22 10 := by
    rw [BitVec.extractLsb'_and]
    exact BitVec.and_allOnes
  rw [opname, opname, op_eq_field, op_eq_field, ← unmasked w, ← unmasked v, h]

/-- Settles O5: the mask leaves the opcode of the instruction's row, and the name is read from those bits. -/
theorem encodingMatchesOpcodeTable : Obligations.EncodingMatchesOpcodeTable := by
  intro i
  refine ⟨?row, fun w same => ?name⟩
  case row => cases i <;> exact enc_and_opcodeMask _ _ _ _
  case name => rw [opname_congr_of_and_opcodeMask same, opname_encode]

/-! ### The offset (30 R52) -/

/-- Settles O6: sign extension keeps the signed value of the 16-bit field. -/
theorem offsetIsTwosComplement : Obligations.OffsetIsTwosComplement := by
  intro w
  have signed : (offset w).toInt = (field2 w).toInt := BitVec.toInt_signExtend_of_le (by omega)
  have lower : -2 ^ 15 ≤ (field2 w).toInt := BitVec.le_toInt _
  have upper : (field2 w).toInt < 2 ^ 15 := BitVec.toInt_lt
  refine ⟨?_, by omega, by omega⟩
  rw [signed, BitVec.toInt_eq_toNat_cond]
  exact if_congr (by omega) rfl rfl

end Sys2Proof
end

/-! ## The reserved destinations (30 R55), and Decode over a step (41 R96) -/

section
namespace Sys2Proof.Machine

/-- 41 R100: the writeback of an add or nor raises ReservedDestFault exactly when its destination does not exist. -/
theorem retireRClass_eq_reservedDestFault_iff {d f : BitVec 16} {s : State} {c : Nat} :
    retireRClass d s = .fault (.reservedDestFault f c) ↔ 7 < d.toNat ∧ f = d ∧ c = s.cycles := by
  by_cases h : 7 < d.toNat <;> simp [retireRClass, raise, h, eq_comm]

theorem dataAccess_ne_reservedDestFault (s : State) (access : Nat → State) (f : BitVec 16) (c : Nat) :
    dataAccess s access ≠ .fault (.reservedDestFault f c) := by
  unfold dataAccess raise
  split <;> simp

/-- 30 R55, 92 D9: ReservedDestFault is raised by ill-formed instructions alone, in writeback alone, with the whole
field2. -/
theorem exec_eq_reservedDestFault_iff {i : Instr} {s : State} {f : BitVec 16} {c : Nat} :
    exec i s = .fault (.reservedDestFault f c) ↔
      s.stage = .writeback ∧ i.wellFormed = false ∧ f = field2 (encode i) ∧ c = s.cycles := by
  cases i
  case add a b d | nor a b d =>
    cases stage : s.stage <;>
      simp [exec, execAdd, execNor, stage, retireRClass_eq_reservedDestFault_iff, Instr.wellFormed, encode]
  case lw a b o | sw a b o =>
    cases stage : s.stage <;>
      simp [exec, execLw, execSw, stage, dataAccess_ne_reservedDestFault, Instr.wellFormed]
  case beq a b o =>
    cases stage : s.stage <;> cases eq : s.exmem.eq <;> simp [exec, execBeq, stage, eq, Instr.wellFormed]
  case jalr a b u =>
    cases stage : s.stage <;> cases mode : s.params.jalrMode <;>
      simp [exec, execJalr, stage, mode, raise, Instr.wellFormed]
  case halt u | noop u =>
    cases stage : s.stage <;> simp [exec, execHalt, execNoop, stage, Instr.wellFormed]

/-- Settles O16, from the one condition under which any stage raises the fault. -/
theorem illFormedExactlyWhenDestinationFaults : Obligations.IllFormedExactlyWhenDestinationFaults := by
  intro i s
  constructor
  · rintro ⟨stage, -⟩
    simp [exec_eq_reservedDestFault_iff, stage]
  · intro notWriteback f c raised
    exact notWriteback (exec_eq_reservedDestFault_iff.mp raised).1

/-- Settles O33: ID/EX of `nextState` reads the registers of the state that the step was taken from. -/
theorem decodeStageReadsBothRegisters : Obligations.DecodeStageReadsBothRegisters := by
  intro s t running h
  obtain ⟨-, rfl⟩ := step_next_of_running running h
  refine ⟨rfl, rfl, rfl, rfl, ?passes, ?bubble⟩
  case passes =>
    intro notStalled notSquashed
    simp [nextState, notStalled, notSquashed]
  case bubble =>
    rintro (stalled | squashed)
    · simp [nextState, stalled]
    · simp [nextState, squashed]

end Sys2Proof.Machine
end

/-! ## The hazard resolver's stall and squash over a step (40 R71, R72, R78, R79) -/

section
namespace Sys2Proof.Machine

/-- 40 R71, as a proposition. -/
theorem stall_iff {s : State} :
    stall s = true ↔ opname s.idex.instr = .lw ∧
      (field0 s.ifid.instr = field1 s.idex.instr ∨ field1 s.ifid.instr = field1 s.idex.instr) := by
  simp [stall]

/-- 40 R78, as a proposition. -/
theorem squash_iff {s : State} : squash s = true ↔ opname s.exmem.instr = .beq ∧ s.exmem.eq = true := by
  simp [squash]

/-- 40 R71: a bubble is no load, so nothing behind it stalls. -/
theorem stall_of_bubble {s : State} (bubble : s.idex.instr = noopWord) : stall s = false := by
  simp [stall, bubble, opname_noopWord]

/-- Settles O35: the bubble that the stall puts behind the lw is what ends the stall. -/
theorem loadUseStallsExactlyOneCycle : Obligations.LoadUseStallsExactlyOneCycle := by
  intro s t running isLw uses notTaken h
  obtain ⟨-, rfl⟩ := step_next_of_running running h
  have stalls : stall s = true := stall_iff.mpr ⟨isLw, uses⟩
  have notSquashed : squash s = false := by rwa [← squash_iff, Bool.not_eq_true] at notTaken
  have bubble : (nextState s).idex.instr = noopWord := by simp [nextState, stalls]
  refine ⟨bubble, ?ifidHeld, ?pcHeld, ?movesOn, stall_of_bubble bubble⟩
  all_goals simp [nextState, stalls, notSquashed]

/-- Settles O37: the four overrides are `nextState`'s under a squash, and a register that the older word does not produce
is one that its writeback does not write. -/
theorem takenBranchSquashesThree : Obligations.TakenBranchSquashesThree := by
  intro s t running isBeq equal h
  have keeps (r : Reg) (notProduced : produces s.memwb.instr r = false) : t.reg.read r = s.reg.read r := by
    rw [step_reg_read h, if_neg (by simp [← produces_iff_writesBack, notProduced])]
  obtain ⟨-, rfl⟩ := step_next_of_running running h
  have taken : squash s = true := squash_iff.mpr ⟨isBeq, equal⟩
  refine ⟨?pc, ?ifid, ?idex, ?exmem, rfl, rfl, ?dmem, keeps⟩
  case dmem => simp [nextState, dmemTable, isBeq]
  all_goals simp [nextState, taken]

end Sys2Proof.Machine
end

/-! ## beq stage by stage (44 R140) -/

section
namespace Sys2Proof.Machine

theorem exec_beq_execute {s : State} (h : s.stage = .execute) (a b : Reg) (o : BitVec 16) :
    exec (.beq a b o) s = .next (latchExecute (aluDifference s) s) := by
  rw [exec, execBeq, h]

theorem exec_beq_memory_taken {s : State} (h : s.stage = .memory) (equal : s.exmem.eq = true) (a b : Reg)
    (o : BitVec 16) :
    exec (.beq a b o) s = .next (squashYounger s.exmem.branchTarget (latchMemoryKept s)) := by
  rw [exec, execBeq, h]
  exact if_pos equal

theorem exec_beq_memory_notTaken {s : State} (h : s.stage = .memory) (notEqual : s.exmem.eq = false) (a b : Reg)
    (o : BitVec 16) : exec (.beq a b o) s = .next (latchMemoryKept s) := by
  rw [exec, execBeq, h]
  exact if_neg (Bool.eq_false_iff.mp notEqual)

theorem exec_beq_writeback {s : State} (h : s.stage = .writeback) (a b : Reg) (o : BitVec 16) :
    exec (.beq a b o) s = .next (retire s) := by
  rw [exec, execBeq, h]

/-- 44 R140: the ALU difference of a word given by its fields. -/
theorem aluDifference_of_enc {s : State} {o : BitVec 10} {a b : Reg} {c : BitVec 16} (h : s.idex.instr = enc o a b c) :
    aluDifference s = forward s a s.idex.valA - forward s b s.idex.valB := by
  rw [aluDifference, operandA, operandB, h, field0_enc, field1_enc]

/-- Settles O19, stage by stage: the comparison, the redirect where the flag is set and the passage where it is not, and
the retirement. -/
theorem beqRunsItsThreeStages : Obligations.BeqRunsItsThreeStages := by
  intro a b o s
  refine ⟨?execute, ?taken, ?notTaken, ?writeback⟩
  case execute =>
    rintro ⟨stage, word⟩
    rw [exec_beq_execute stage, latchExecute_of_enc _ word, aluDifference_of_enc word]
    rfl
  case taken =>
    rintro ⟨stage, word⟩ equal
    rw [exec_beq_memory_taken stage equal, ← word]
    rfl
  case notTaken =>
    rintro ⟨stage, word⟩ notEqual
    rw [exec_beq_memory_notTaken stage notEqual, ← word]
    rfl
  case writeback =>
    rintro ⟨stage, word⟩
    rw [exec_beq_writeback stage, ← word]
    rfl

end Sys2Proof.Machine
end

/-! ## Forwarding and the pipeline's invariant (40 R73 to R75, R82 to R84) -/

section
namespace Sys2Proof.Machine

/-- 40 R74: the nearest producer of the register wins. -/
theorem forward_eq (s : State) (r : Reg) (v : Word) :
    forward s r v =
      if produces s.exmem.instr r then s.exmem.aluResult
      else if produces s.memwb.instr r then s.memwb.writeData
      else if produces s.wbend.instr r then s.wbend.writeData
      else v := rfl

/-- Settles O39: a word produces the register that it writes back, and the checks of 40 R74 override each other from the
farthest to the nearest. -/
theorem forwardingNearestProducerWins : Obligations.ForwardingNearestProducerWins :=
  ⟨fun _ _ => produces_iff_writesBack, fun s => ⟨forward_eq s _ _, forward_eq s _ _⟩⟩

/-- 40 R82: a producer of a register that it does not load is an add or nor, no lw. -/
theorem not_lw_of_produces {w : Word} {r : Reg} (produced : produces w r = true)
    (notLoaded : opname w ≠ .lw ∨ r ≠ field1 w) : opname w ≠ .lw := by
  intro isLw
  rcases produces_iff_writesBack.mp produced with ⟨rClass, -⟩ | ⟨-, rfl⟩
  · simp [isLw] at rClass
  · exact notLoaded.elim (absurd isLw) (absurd rfl)

/-- 40 R84: of a register that a load in EX/MEM does not feed, and whose decoded value is fresh but for WB/END, forwarding
gives the value once the older words have written back. -/
theorem forward_eq_olderValue {s : State} {r : Reg} {v : Word}
    (notLoaded : opname s.exmem.instr ≠ .lw ∨ r ≠ field1 s.exmem.instr)
    (fresh : substitute s.wbend.instr s.wbend.writeData r v = s.reg.read r) : forward s r v = olderValue s r := by
  rw [forward, fresh, olderValue]
  by_cases produced : produces s.exmem.instr r = true
  · rw [substitute, if_pos produced, if_pos produced, if_neg (not_lw_of_produces produced notLoaded)]
  · rw [substitute, if_neg produced, if_neg produced, substitute]

/-- Settles O48: the invariant gives both raw operands what forwarding needs. -/
theorem forwardedOperandsAreProgramOrderValues : Obligations.ForwardedOperandsAreProgramOrderValues := by
  rintro s ⟨loadNotAdjacent, valAFresh, valBFresh, -⟩ notBubble
  have notLoaded := loadNotAdjacent.resolve_left notBubble
  exact ⟨forward_eq_olderValue (notLoaded.imp_right And.left) (valAFresh.resolve_left notBubble),
    forward_eq_olderValue (notLoaded.imp_right And.right) (valBFresh.resolve_left notBubble)⟩

/-- 40 R82: a bubble in ID/EX needs nothing of the interlock. -/
theorem pipelineInv_of_bubble {s : State} (bubble : s.idex.instr = noopWord) : PipelineInv s :=
  ⟨.inl bubble, .inl bubble, .inl bubble, .inl bubble⟩

/-- 40 R82, R83: a cycle that raises nothing leaves a bubble in ID/EX, or a word that did not stall, whose operands were
read while the word now in WB/END was writing back. -/
theorem pipelineInv_nextState {s : State} (noFault : writebackFault s = none) : PipelineInv (nextState s) := by
  by_cases overridden : (squash s || stall s) = true
  · exact pipelineInv_of_bubble (if_pos overridden)
  · obtain ⟨notSquashed, notStalled⟩ : squash s = false ∧ stall s = false := by simpa using overridden
    have decoded : (nextState s).idex.instr = s.ifid.instr := if_neg overridden
    have movesOn : (nextState s).exmem.instr = s.idex.instr := by simp [nextState, notSquashed]
    have fresh := substitute_memwb_read noFault
    constructor <;> right <;> rw [decoded]
    case loadNotAdjacent =>
      rw [movesOn]
      have notLoadUse := mt stall_iff.mpr (Bool.eq_false_iff.mp notStalled)
      tauto
    case valAFresh => exact fresh _
    case valBFresh => exact fresh _
    case offsetFresh => rfl

/-- Settles O46: a halted core keeps its state, and every other step is `nextState` with no fault in writeback. -/
theorem stepKeepsThePipelineInvariant : Obligations.StepKeepsThePipelineInvariant := by
  intro s t inv h
  rcases step_next_cases h with ⟨-, rfl⟩ | ⟨-, noFault, rfl⟩
  · exact inv
  · exact pipelineInv_nextState (cycleFault_eq_none_iff.mp noFault).1

/-- Settles O47: reset leaves a bubble in ID/EX. -/
theorem loadedStateMeetsThePipelineInvariant : Obligations.LoadedStateMeetsThePipelineInvariant :=
  fun _ _ => pipelineInv_of_bubble rfl

end Sys2Proof.Machine
end

/-! ## A halting run against sequential execution (70 R190) -/

section
namespace Sys2Proof.Machine

/-- 41 R93: no step, a halted core's own included, changes the parameters or instruction memory. -/
theorem step_params_imem {s t : State} (h : step s = .next t) : t.params = s.params ∧ t.imem = s.imem := by
  rcases step_next_cases h with ⟨-, rfl⟩ | ⟨-, -, rfl⟩ <;> exact ⟨rfl, rfl⟩

/-- 40 R84, over a run of cycles: what the pipeline stands for at the end is what it stood for, advanced by some number of
instructions. -/
theorem drain_runCycles {n : Nat} {s t : State} (inv : PipelineInv s) (h : runCycles n s = .next t) :
    ∃ m, drain t = (drain s).bind (sequentialRun s.params s.imem m) := by
  induction n generalizing s with
  | zero =>
    cases h
    exact ⟨0, (Option.bind_fun_some _).symm⟩
  | succ n ih =>
    obtain ⟨u, first, rest⟩ := andThen_eq_next.mp h
    obtain ⟨m, drained⟩ := ih (stepKeepsThePipelineInvariant s u inv first) rest
    obtain ⟨params, imem⟩ := step_params_imem first
    rw [params, imem] at drained
    rcases cycleRefinesSequentialExecution s u inv first with kept | advanced
    · exact ⟨m, by rw [drained, kept]⟩
    · refine ⟨m + 1, ?_⟩
      rw [drained, advanced, Option.bind_assoc]
      rfl

/-- 40 R77: a pipeline of bubbles stands for its own registers and data memory, with the pc next. -/
theorem drain_of_bubbles {s : State} (ifid : s.ifid.instr = noopWord) (idex : s.idex.instr = noopWord)
    (exmem : s.exmem.instr = noopWord) (memwb : s.memwb.instr = noopWord) :
    drain s = some ⟨some s.pc, s.reg, s.dmem⟩ := by
  have passesMemwb : drain s = drainExmem s ⟨none, s.reg, s.dmem⟩ := by
    rw [drain, memwb, opname_noopWord]
  have passesExmem (a : Arch) : drainExmem s a = drainIdex s a := by
    rw [drainExmem, exmem, opname_noopWord]
  rw [passesMemwb, passesExmem, drainIdex_eq, idex, completeThen_noopWord, drainIfid_eq, ifid, completeThen_noopWord]

/-- Settles O51: a halted core stands for its own registers and data memory, and the loaded state for sequential execution
from address 0. -/
theorem haltedRunAgreesWithSequentialExecution : Obligations.HaltedRunAgreesWithSequentialExecution := by
  intro p image n s run isHalted
  obtain ⟨m, drained⟩ := drain_runCycles (loadedStateMeetsThePipelineInvariant p image) run
  have isHalt : opname s.memwb.instr = .halt := by simpa [State.runStatus] using isHalted
  rw [drain_of_halted isHalt, drain_of_bubbles rfl rfl rfl rfl, Option.bind_some] at drained
  exact ⟨m, drained.symm⟩

end Sys2Proof.Machine
end

/-! ## add, nor, jalr, halt and noop stage by stage (42 R120, R121; 44 R141; 45 R150, R151) -/

section
namespace Sys2Proof.Machine

/-! ### add and nor (42 R120, R121) -/

theorem exec_add_execute {s : State} (h : s.stage = .execute) (a b : Reg) (d : BitVec 16) :
    exec (.add a b d) s = .next (latchExecute (aluAdd s) s) := by
  rw [exec, execAdd, h]

theorem exec_add_memory {s : State} (h : s.stage = .memory) (a b : Reg) (d : BitVec 16) :
    exec (.add a b d) s = .next (latchMemory s.exmem.aluResult s) := by
  rw [exec, execAdd, h]

theorem exec_add_writeback {s : State} (h : s.stage = .writeback) (a b : Reg) (d : BitVec 16) :
    exec (.add a b d) s = retireRClass d s := by
  rw [exec, execAdd, h]

theorem exec_nor_execute {s : State} (h : s.stage = .execute) (a b : Reg) (d : BitVec 16) :
    exec (.nor a b d) s = .next (latchExecute (aluNor s) s) := by
  rw [exec, execNor, h]

theorem exec_nor_memory {s : State} (h : s.stage = .memory) (a b : Reg) (d : BitVec 16) :
    exec (.nor a b d) s = .next (latchMemory s.exmem.aluResult s) := by
  rw [exec, execNor, h]

theorem exec_nor_writeback {s : State} (h : s.stage = .writeback) (a b : Reg) (d : BitVec 16) :
    exec (.nor a b d) s = retireRClass d s := by
  rw [exec, execNor, h]

/-- 42 R120: the sum of a word given by its fields. -/
theorem aluAdd_of_enc {s : State} {o : BitVec 10} {a b : Reg} {c : BitVec 16} (h : s.idex.instr = enc o a b c) :
    aluAdd s = forward s a s.idex.valA + forward s b s.idex.valB := by
  rw [aluAdd, operandA, operandB, h, field0_enc, field1_enc]

/-- 42 R121: the result of nor for a word given by its fields. -/
theorem aluNor_of_enc {s : State} {o : BitVec 10} {a b : Reg} {c : BitVec 16} (h : s.idex.instr = enc o a b c) :
    aluNor s = ~~~(forward s a s.idex.valA ||| forward s b s.idex.valB) := by
  rw [aluNor, operandA, operandB, h, field0_enc, field1_enc]

/-- 41 R100: a destination that exists is written. -/
theorem retireRClass_of_le {d : BitVec 16} (s : State) (le : d.toNat ≤ 7) :
    retireRClass d s = .next (retireTo (d.setWidth 3) s) :=
  if_neg (Nat.not_lt.mpr le)

/-- 41 R100, 92 D9: a destination above 7 raises. -/
theorem retireRClass_of_gt {d : BitVec 16} (s : State) (gt : 7 < d.toNat) :
    retireRClass d s = .fault (.reservedDestFault d s.cycles) :=
  retireRClass_eq_reservedDestFault_iff.mpr ⟨gt, rfl, rfl⟩

/-- Settles O14, stage by stage: the sum, the passage, and the register write or the fault by the destination. -/
theorem addRunsItsThreeStages : Obligations.AddRunsItsThreeStages := by
  intro a b d s
  refine ⟨?execute, ?memory, ?writeback, ?reserved⟩
  case execute =>
    rintro ⟨stage, word⟩
    rw [exec_add_execute stage, latchExecute_of_enc _ word, aluAdd_of_enc word]
    rfl
  case memory =>
    rintro ⟨stage, word⟩
    rw [exec_add_memory stage, ← word]
    rfl
  case writeback =>
    rintro ⟨stage, word⟩ le
    rw [exec_add_writeback stage, retireRClass_of_le s le, ← word]
    rfl
  case reserved =>
    rintro ⟨stage, -⟩ gt
    rw [exec_add_writeback stage, retireRClass_of_gt s gt]

/-- Settles O15, stage by stage: the nor, the passage, and the register write or the fault by the destination. -/
theorem norRunsItsThreeStages : Obligations.NorRunsItsThreeStages := by
  intro a b d s
  refine ⟨?execute, ?memory, ?writeback, ?reserved⟩
  case execute =>
    rintro ⟨stage, word⟩
    rw [exec_nor_execute stage, latchExecute_of_enc _ word, aluNor_of_enc word]
    rfl
  case memory =>
    rintro ⟨stage, word⟩
    rw [exec_nor_memory stage, ← word]
    rfl
  case writeback =>
    rintro ⟨stage, word⟩ le
    rw [exec_nor_writeback stage, retireRClass_of_le s le, ← word]
    rfl
  case reserved =>
    rintro ⟨stage, -⟩ gt
    rw [exec_nor_writeback stage, retireRClass_of_gt s gt]

/-! ### jalr (44 R141) -/

theorem exec_jalr_execute {s : State} (h : s.stage = .execute) (a b : Reg) (u : BitVec 16) :
    exec (.jalr a b u) s = .next (latchExecute (aluKept s) s) := by
  rw [exec, execJalr, h]

theorem exec_jalr_memory {s : State} (h : s.stage = .memory) (a b : Reg) (u : BitVec 16) :
    exec (.jalr a b u) s = .next (latchMemory s.exmem.aluResult s) := by
  rw [exec, execJalr, h]

theorem exec_jalr_writeback_noop {s : State} (h : s.stage = .writeback) (mode : s.params.jalrMode = .noop) (a b : Reg)
    (u : BitVec 16) : exec (.jalr a b u) s = .next (retire s) := by
  rw [exec, execJalr, h, mode]

theorem exec_jalr_writeback_fault {s : State} (h : s.stage = .writeback)
    (mode : s.params.jalrMode = .faultAtWriteback) (a b : Reg) (u : BitVec 16) :
    exec (.jalr a b u) s = .fault (.unimplementedFault s.memwb.instr s.cycles) := by
  rw [exec, execJalr, h, mode]
  rfl

/-- Settles O20, stage by stage: the kept ALU result, the passage, and the retirement or the fault by the mode. -/
theorem jalrRunsItsThreeStages : Obligations.JalrRunsItsThreeStages := by
  intro a b u s
  refine ⟨?execute, ?memory, ?noop, ?fault⟩
  case execute =>
    rintro ⟨stage, word⟩
    rw [exec_jalr_execute stage, latchExecute_of_enc _ word]
    rfl
  case memory =>
    rintro ⟨stage, word⟩
    rw [exec_jalr_memory stage, ← word]
    rfl
  case noop =>
    rintro ⟨stage, word⟩ mode
    rw [exec_jalr_writeback_noop stage mode, ← word]
    rfl
  case fault =>
    rintro ⟨stage, word⟩ mode
    rw [exec_jalr_writeback_fault stage mode, ← word]
    rfl

/-! ### halt and noop (45 R150, R151) -/

theorem exec_halt_execute {s : State} (h : s.stage = .execute) (u : BitVec 22) :
    exec (.halt u) s = .next (latchExecute (aluKept s) s) := by
  rw [exec, execHalt, h]

theorem exec_halt_memory {s : State} (h : s.stage = .memory) (u : BitVec 22) :
    exec (.halt u) s = .next (latchMemory s.exmem.aluResult s) := by
  rw [exec, execHalt, h]

theorem exec_halt_writeback {s : State} (h : s.stage = .writeback) (u : BitVec 22) :
    exec (.halt u) s = .next s := by
  rw [exec, execHalt, h]

theorem exec_noop_execute {s : State} (h : s.stage = .execute) (u : BitVec 22) :
    exec (.noop u) s = .next (latchExecute (aluKept s) s) := by
  rw [exec, execNoop, h]

theorem exec_noop_memory {s : State} (h : s.stage = .memory) (u : BitVec 22) :
    exec (.noop u) s = .next (latchMemory s.exmem.aluResult s) := by
  rw [exec, execNoop, h]

theorem exec_noop_writeback {s : State} (h : s.stage = .writeback) (u : BitVec 22) :
    exec (.noop u) s = .next (retire s) := by
  rw [exec, execNoop, h]

/-- 41 R110, 92 D23: a halted core's step answers its own state. -/
theorem step_of_halted {s : State} (isHalt : opname s.memwb.instr = .halt) : step s = .next s := by
  rw [step_eq, if_pos (halted_iff.mpr isHalt)]

/-- Settles O21: a halt passes Execute and Memory, and its word in MEM/WB is what halts the core. -/
theorem haltDrainsAndThenStops : Obligations.HaltDrainsAndThenStops := by
  intro u s
  refine ⟨?execute, ?memory, ?stops⟩
  case execute =>
    rintro ⟨stage, word⟩
    rw [exec_halt_execute stage, ← word]
    rfl
  case memory =>
    rintro ⟨stage, word⟩
    rw [exec_halt_memory stage, ← word]
    rfl
  case stops =>
    intro word
    have isHalt : opname s.memwb.instr = .halt := (congrArg opname word).trans (opname_encode _)
    exact ⟨step_of_halted isHalt, if_pos isHalt, exec_halt_writeback rfl u⟩

/-- Settles O22, stage by stage: the kept ALU result, the passage and the retirement. -/
theorem noopRunsItsThreeStages : Obligations.NoopRunsItsThreeStages := by
  intro u s
  refine ⟨?execute, ?memory, ?writeback⟩
  case execute =>
    rintro ⟨stage, word⟩
    rw [exec_noop_execute stage, ← word]
    rfl
  case memory =>
    rintro ⟨stage, word⟩
    rw [exec_noop_memory stage, ← word]
    rfl
  case writeback =>
    rintro ⟨stage, word⟩
    rw [exec_noop_writeback stage, ← word]
    rfl

end Sys2Proof.Machine
end

/-! ## The frame of an instruction (41 R92, R102) -/

section
namespace Sys2Proof.Machine

/-- What an instruction can leave in the stage the state names, when it answers a next state (41 R97 to R101). -/
inductive StageLeaves (i : Instr) (s : State) : State → Prop where
  | executed (alu : Word) (stage : s.stage = .execute) : StageLeaves i s (latchExecute alu s)
  | passed (writeData : Word) (stage : s.stage = .memory) : StageLeaves i s (latchMemory writeData s)
  | stored (a : Nat) (v : Word) (stage : s.stage = .memory) (stores : storesTo i s = some a) :
      StageLeaves i s ((latchMemoryKept s).setDmem (s.dmem.write a v))
  | redirected (target : Word) (stage : s.stage = .memory) (taken : redirects i s = true) :
      StageLeaves i s (squashYounger target (latchMemoryKept s))
  | stopped (stage : s.stage = .writeback) : StageLeaves i s s
  | retired (stage : s.stage = .writeback) : StageLeaves i s (retire s)
  | wroteBack (r : Reg) (stage : s.stage = .writeback) (writes : writesReg i s = some r) :
      StageLeaves i s (retireTo r s)

/-- 41 R97: the execute stage of every instruction latches EX/MEM. -/
theorem exec_of_execute {s : State} (stage : s.stage = .execute) (i : Instr) :
    ∃ alu, exec i s = .next (latchExecute alu s) := by
  cases i with
  | add a b d => exact ⟨_, exec_add_execute stage a b d⟩
  | nor a b d => exact ⟨_, exec_nor_execute stage a b d⟩
  | lw a b o => exact ⟨_, exec_lw_execute stage a b o⟩
  | sw a b o => exact ⟨_, exec_sw_execute stage a b o⟩
  | beq a b o => exact ⟨_, exec_beq_execute stage a b o⟩
  | jalr a b u => exact ⟨_, exec_jalr_execute stage a b u⟩
  | halt u => exact ⟨_, exec_halt_execute stage u⟩
  | noop u => exact ⟨_, exec_noop_execute stage u⟩

/-- 20 R36: a data access that answers a next state does what the access does. -/
theorem eq_access_of_dataAccess {s t : State} {access : Nat → State} (h : dataAccess s access = .next t) :
    t = access s.exmem.aluResult.toNat := by
  unfold dataAccess at h
  split at h <;> cases h
  rfl

/-- 41 R99: the memory stage latches MEM/WB, and beside that an sw stores and a taken beq redirects. -/
theorem stageLeaves_of_memory {i : Instr} {s t : State} (stage : s.stage = .memory) (h : exec i s = .next t) :
    StageLeaves i s t := by
  cases i
  case lw a b o =>
    rw [exec_lw_memory stage] at h
    exact eq_access_of_dataAccess h ▸ .passed _ stage
  case sw a b o =>
    rw [exec_sw_memory stage] at h
    exact eq_access_of_dataAccess h ▸ .stored _ _ stage (if_pos stage)
  case beq a b o =>
    cases equal : s.exmem.eq
    · rw [exec_beq_memory_notTaken stage equal] at h
      cases h
      exact .passed _ stage
    · rw [exec_beq_memory_taken stage equal] at h
      cases h
      exact .redirected _ stage (by simp [redirects, stage, equal])
  all_goals
    simp only [exec_add_memory stage, exec_nor_memory stage, exec_jalr_memory stage, exec_halt_memory stage,
      exec_noop_memory stage] at h
    cases h
    exact .passed _ stage

/-- 41 R100, R101: the writeback stage retires, and beside that an add, nor or lw writes its register. -/
theorem stageLeaves_of_writeback {i : Instr} {s t : State} (stage : s.stage = .writeback) (h : exec i s = .next t) :
    StageLeaves i s t := by
  cases i
  case add a b d | nor a b d =>
    simp only [exec_add_writeback stage, exec_nor_writeback stage, retireRClass] at h
    split at h <;> cases h
    exact .wroteBack _ stage (if_pos stage)
  case lw a b o =>
    rw [exec_lw_writeback stage] at h
    cases h
    exact .wroteBack _ stage (if_pos stage)
  case jalr a b u =>
    cases mode : s.params.jalrMode
    · rw [exec_jalr_writeback_noop stage mode] at h
      cases h
      exact .retired stage
    · rw [exec_jalr_writeback_fault stage mode] at h
      cases h
  case halt u =>
    rw [exec_halt_writeback stage] at h
    cases h
    exact .stopped stage
  all_goals
    simp only [exec_sw_writeback stage, exec_beq_writeback stage, exec_noop_writeback stage] at h
    cases h
    exact .retired stage

/-- An instruction leaves nothing else, whatever the stage. -/
theorem stageLeaves_of_exec {i : Instr} {s t : State} (h : exec i s = .next t) : StageLeaves i s t := by
  cases stage : s.stage
  case execute =>
    obtain ⟨alu, latches⟩ := exec_of_execute stage i
    cases latches.symm.trans h
    exact .executed alu stage
  case memory => exact stageLeaves_of_memory stage h
  case writeback => exact stageLeaves_of_writeback stage h

/-- 40 R78: a branch redirects in the memory stage alone. -/
theorem stage_of_redirects {i : Instr} {s : State} (taken : redirects i s = true) : s.stage = .memory := by
  cases i
  case beq a b o => exact of_decide_eq_true (Bool.and_eq_true_iff.mp taken).1
  all_goals cases taken

/-- Settles O24, clause by clause over what a stage can leave. -/
theorem instructionFrame : Obligations.InstructionFrame := by
  intro i s t dmemWf h
  have leaves := stageLeaves_of_exec h
  refine ⟨?imem, ?cycles, ?params, ?stage, ?registers, ?memory, ?straight, ?redirected, ?memwb, ?wbend⟩
  case imem | cycles | params | stage => cases leaves <;> rfl
  case registers =>
    intro r notWritten
    cases leaves
    case wroteBack q _ writes => exact regFile_read_write_ne _ _ fun e : r = q => notWritten (e ▸ writes)
    all_goals rfl
  case memory =>
    intro a notStored
    cases leaves
    case stored b v _ stores =>
      exact (memory_read_write b v a dmemWf).trans (if_neg fun e : a = b => notStored (e ▸ stores))
    all_goals rfl
  case straight =>
    intro straight
    cases leaves
    case executed _ inExecute => exact ⟨rfl, rfl, rfl, absurd inExecute⟩
    case redirected _ _ taken => simp [taken] at straight
    all_goals exact ⟨rfl, rfl, rfl, fun _ => rfl⟩
  case redirected =>
    intro taken
    have inMemory := stage_of_redirects taken
    cases leaves
    case executed _ inExecute => simp [inExecute] at inMemory
    all_goals exact ⟨rfl, rfl, rfl⟩
  case memwb =>
    intro notMemory
    cases leaves
    case passed | stored | redirected => contradiction
    all_goals rfl
  case wbend =>
    intro notWriteback
    cases leaves
    case retired | wroteBack => contradiction
    all_goals rfl

end Sys2Proof.Machine
end

/-! ## What a step answers (41 R91, R110; 60 R161 to R163) -/

section
namespace Sys2Proof.Machine

/-- Settles O25: the three stages decode their words, and a core that is not halted runs them. -/
theorem stepRunsTheDecodedInstructions : Obligations.StepRunsTheDecodedInstructions := by
  refine ⟨fun k s i decoded => ?legal, fun k s e rejected => ?illegal, fun s running => ?runs⟩
  case legal => rw [runStage, decoded]
  case illegal => rw [runStage, rejected]
  case runs => exact if_neg (mt halted_iff.mp running)

/-- 41 R91: a core that is not halted, in a cycle that raises nothing, goes on to `nextState`. -/
theorem step_of_noFault {s : State} (running : opname s.memwb.instr ≠ .halt) (noFault : cycleFault s = none) :
    step s = .next (nextState s) := by
  rw [step_eq, if_neg (mt halted_iff.mp running), noFault]

/-- Settles O26: any cycle that runs adds 1 to the counter. -/
theorem stepKeepsStateExactlyWhenHalted : Obligations.StepKeepsStateExactlyWhenHalted := by
  intro s
  refine ⟨step_of_halted, fun kept => ?_⟩
  by_contra running
  obtain ⟨counts, -⟩ := cycleCountsAndKeepsCode s s running kept
  omega

/-- 60 R161: a step faults exactly where the core is not halted and the cycle raises. -/
theorem step_eq_fault_iff {s : State} {f : Fault} :
    step s = .fault f ↔ opname s.memwb.instr ≠ .halt ∧ cycleFault s = some f := by
  rw [step_eq, ne_eq, ← halted_iff]
  cases halted s <;> cases cycleFault s <;> simp

/-- Settles O27: 60 R163's priority is the order in which `cycleFault` asks the three tables. -/
theorem stepFaultsExactlyByTheTable : Obligations.StepFaultsExactlyByTheTable := by
  intro s f
  rw [step_eq_fault_iff, cycleFault, Option.or_eq_some_iff, Option.or_eq_some_iff]

/-- Settles O28: a step is a halted core's own state, a fault, or `nextState`. -/
theorem stepAnswersWhereNothingIsRaised : Obligations.StepAnswersWhereNothingIsRaised := by
  intro s
  refine ⟨fun noWriteback noMemory noFetch => ?answers, fun r => ?neverRefused⟩
  case answers =>
    by_cases isHalt : opname s.memwb.instr = .halt
    · exact ⟨s, step_of_halted isHalt⟩
    · exact ⟨nextState s, step_of_noFault isHalt (cycleFault_eq_none_iff.mpr ⟨noWriteback, noMemory, noFetch⟩)⟩
  case neverRefused =>
    rw [step_eq]
    cases halted s <;> cases cycleFault s <;> simp

/-- Settles O50, the end of the refinement. -/
theorem haltedCoreIsFullyDrained : Obligations.HaltedCoreIsFullyDrained :=
  fun _ isHalt => drain_of_halted isHalt

end Sys2Proof.Machine
end

/-! ## Execute, writeback, retirement and fetch over a step (41 R94, R97, R98, R100, R101) -/

section
namespace Sys2Proof.Machine

/-- Settles O29: EX/MEM of `nextState` is the latch of 41 R97 with the table of 41 R98. -/
theorem executeStageLatches : Obligations.ExecuteStageLatches := by
  intro s t running h
  obtain ⟨-, rfl⟩ := step_next_of_running running h
  exact ⟨rfl, rfl, beq_iff_eq, rfl, rfl⟩

/-- Settles O32: WB/END of `nextState` is MEM/WB of the state that the step was taken from. -/
theorem retirementCopiesMemWb : Obligations.RetirementCopiesMemWb := by
  intro s t running h
  obtain ⟨-, rfl⟩ := step_next_of_running running h
  exact ⟨rfl, rfl⟩

/-- 60 R163: the word in MEM/WB is the oldest, so its fault is the step's. -/
theorem step_of_writebackFault {s : State} {f : Fault} (h : writebackFault s = some f) : step s = .fault f := by
  refine step_eq_fault_iff.mpr ⟨fun isHalt => ?_, by rw [cycleFault, h, Option.some_or]⟩
  simp [writebackFault, isHalt] at h

/-- Settles O31: the faults are the table's of 60 R162, and a register changes exactly where the word in MEM/WB writes it. -/
theorem writebackByOpcode : Obligations.WritebackByOpcode := by
  intro s
  refine ⟨fun rClass => ⟨fun gt => ?reserved, fun t h r => ?rClass⟩, fun isLw t h r => ?lw, fun isJalr mode => ?jalr,
    fun isIllegal mode => ?illegal, fun writesNothing t h => ?others⟩
  case reserved =>
    apply step_of_writebackFault
    rcases rClass with e | e <;> simp [writebackFault, e, gt]
  case rClass =>
    have notLw : opname s.memwb.instr ≠ .lw := by rcases rClass with e | e <;> simp [e]
    rw [step_reg_read h]
    exact if_congr (by simp [WritesBack, rClass, notLw, eq_comm (a := r.toNat)]) rfl rfl
  case lw => simp [step_reg_read h, WritesBack, isLw, eq_comm]
  case jalr => exact step_of_writebackFault (by simp [writebackFault, isJalr, mode])
  case illegal => exact step_of_writebackFault (by simp [writebackFault, isIllegal, mode])
  case others =>
    refine regFile_ext fun r => ?_
    rw [step_reg_read h, if_neg]
    rcases writesNothing with e | e | e | ⟨e, -⟩ | ⟨e, -⟩ <;> simp [WritesBack, e]

/-- 60 R162 code 1: FetchAddressFault is the fetch's alone. -/
theorem writebackFault_ne_fetchAddressFault (s : State) (a : Word) (c : Nat) :
    writebackFault s ≠ some (.fetchAddressFault a c) := by
  unfold writebackFault
  cases opname s.memwb.instr <;> simp

theorem memoryFault_ne_fetchAddressFault (s : State) (a : Word) (c : Nat) :
    memoryFault s ≠ some (.fetchAddressFault a c) := by
  unfold memoryFault
  cases opname s.exmem.instr <;> simp

/-- 41 R94: where the fetch is held or redirected it raises nothing. -/
theorem fetchFault_of_held {s : State} (held : stall s = true ∨ squash s = true) : fetchFault s = none :=
  if_pos (held.imp_right .inl)

/-- 41 R94: with neither stall nor squash the word at the pc is fetched and the pc advances. -/
theorem nextState_fetches {s : State} (notStalled : stall s = false) (notSquashed : squash s = false) :
    (nextState s).ifid = ⟨s.imem.read s.pc.toNat, s.pc + 1⟩ ∧ (nextState s).pc = s.pc + 1 := by
  simp [nextState, notStalled, notSquashed]

/-- Settles O34: IF/ID and the pc are `nextState`'s, and only a fetch that reads instruction memory can raise the fetch's
fault. -/
theorem fetchAdvancesUnlessHeld : Obligations.FetchAdvancesUnlessHeld := by
  intro s running
  refine ⟨fun notStalled notSquashed t h => ?advances, fun stalled notSquashed t h => ?holds,
    fun squashed t h => ?redirects, fun held a c h => ?noFetchFault⟩
  case noFetchFault =>
    obtain ⟨-, table⟩ := (stepFaultsExactlyByTheTable s _).mp h
    simp [writebackFault_ne_fetchAddressFault, memoryFault_ne_fetchAddressFault, fetchFault_of_held held] at table
  all_goals obtain ⟨-, rfl⟩ := step_next_of_running running h
  case advances => exact nextState_fetches notStalled notSquashed
  case holds => simp [nextState, stalled, notSquashed]
  case redirects => simp [nextState, squashed]

end Sys2Proof.Machine
end

/-! ## A placed word: its fetch, its decode and its Execute (41 R94, R96, R97) -/

section
namespace Sys2Proof.Machine

/-- 40 R77: a bubble produces no register. -/
theorem produces_noopWord (r : Reg) : produces noopWord r = false := by
  simp [produces, producerDest, opname_noopWord]

/-- 40 R74: over bubbles nothing is forwarded. -/
theorem forward_of_bubbles {s : State} (exmem : s.exmem.instr = noopWord) (memwb : s.memwb.instr = noopWord)
    (wbend : s.wbend.instr = noopWord) (r : Reg) (v : Word) : forward s r v = v := by
  simp [forward_eq, exmem, memwb, wbend, produces_noopWord]

theorem squash_of_bubble {s : State} (bubble : s.exmem.instr = noopWord) : squash s = false := by
  simp [squash, bubble, opname_noopWord]

/-- 41 R99: the memory stage of a bubble stores nothing. -/
theorem dmemTable_of_bubble {s : State} (bubble : s.exmem.instr = noopWord) : dmemTable s = s.dmem := by
  simp [dmemTable, bubble, opname_noopWord]

/-- 41 R100: the writeback of a bubble writes nothing. -/
theorem regTable_of_bubble {s : State} (bubble : s.memwb.instr = noopWord) : regTable s = s.reg := by
  simp [regTable, bubble, opname_noopWord]

/-- 60 R162: with bubbles in EX/MEM and MEM/WB only the fetch can fault, so that with the pc in range the step answers. -/
theorem step_of_bubblesAhead {s : State} (exmem : s.exmem.instr = noopWord) (memwb : s.memwb.instr = noopWord)
    (valid : addressValid s.params s.pc = true) : step s = .next (nextState s) := by
  refine step_of_noFault (by simp [memwb, opname_noopWord]) (cycleFault_eq_none_iff.mpr ⟨?_, ?_, ?_⟩)
  · simp [writebackFault, memwb, opname_noopWord]
  · simp [memoryFault, exmem, opname_noopWord]
  · exact if_pos (.inr (.inr (addressValid_iff.mp valid)))

/-- 40 R77: behind bubbles in EX/MEM and MEM/WB, a state stands for the words younger than those. -/
theorem drain_of_bubblesAhead {s : State} (exmem : s.exmem.instr = noopWord) (memwb : s.memwb.instr = noopWord) :
    drain s = drainIdex s ⟨none, s.reg, s.dmem⟩ := by
  rw [drain, memwb, opname_noopWord]
  dsimp only
  rw [drainExmem, exmem, opname_noopWord]

/-- 41 R96: with neither stall nor squash ID/EX takes the decoded word. -/
theorem nextState_decodes {s : State} (notStalled : stall s = false) (notSquashed : squash s = false) :
    (nextState s).idex = (decodeStage s).idex := by
  simp [nextState, decodeStage, notStalled, notSquashed]

/-- 41 R97: with no squash the word in ID/EX moves on. -/
theorem nextState_exmem_instr {s : State} (notSquashed : squash s = false) :
    (nextState s).exmem.instr = s.idex.instr := by
  simp [nextState, notSquashed]

/-- The placed word is in instruction memory at the pc. -/
theorem read_placeAtFetch {s : State} (word : Word) (imemWf : s.imem.wf = true) :
    (placeAtFetch s word).imem.read s.pc.toNat = word := by
  rw [placeAtFetch_eq, memory_read_write _ _ _ imemWf, if_pos rfl]

/-- 41 R94: over bubbles alone the cycle fetches the placed word and leaves no other word in flight. -/
theorem nextState_placeAtFetch {s t : State} {word : Word} (imemWf : s.imem.wf = true)
    (ht : t = nextState (placeAtFetch s word)) :
    t.ifid = ⟨word, s.pc + 1⟩ ∧ t.pc = s.pc + 1 ∧ t.reg = s.reg ∧ t.dmem = s.dmem ∧
      t.idex.instr = noopWord ∧ t.exmem.instr = noopWord ∧ t.memwb.instr = noopWord := by
  subst ht
  have notStalled : stall (placeAtFetch s word) = false := stall_of_bubble rfl
  have notSquashed : squash (placeAtFetch s word) = false := squash_of_bubble rfl
  obtain ⟨ifid, pc⟩ := nextState_fetches notStalled notSquashed
  have decoded := nextState_decodes notStalled notSquashed
  exact ⟨ifid.trans (congrArg (IFID.mk · _) (read_placeAtFetch word imemWf)), pc, regTable_of_bubble rfl,
    dmemTable_of_bubble rfl, congrArg IDEX.instr decoded, nextState_exmem_instr notSquashed, rfl⟩

/-- Settles O43: with no word in flight the cycle fetches the placed word, and the next one decodes it, the bubble in
ID/EX stalling nothing. -/
theorem placedWordIsFetchedNext : Obligations.PlacedWordIsFetchedNext := by
  intro s w imemWf valid
  rw [withFetchWord_eq]
  generalize BitVec.ofNat 32 w = word
  obtain ⟨t, ht⟩ : ∃ t, t = nextState (placeAtFetch s word) := ⟨_, rfl⟩
  have params : t.params = s.params := by rw [ht]; rfl
  have imem : t.imem = s.imem.write s.pc.toNat word := by rw [ht]; rfl
  obtain ⟨ifid, pc, reg, dmem, idex, exmem, memwb⟩ := nextState_placeAtFetch imemWf ht
  have fetches : step (placeAtFetch s word) = .next t := ht ▸ step_of_bubblesAhead rfl rfl valid
  refine ⟨t, fetches, by rw [ifid], by rw [ifid], pc, reg, dmem, fun validNext => ?decodes⟩
  have notSquashed : squash t = false := squash_of_bubble exmem
  have decoded : (nextState t).idex = (placeAtExecute s word).idex := by
    rw [nextState_decodes (stall_of_bubble idex) notSquashed, decodeStage, ifid, reg]
    rfl
  exact ⟨nextState t, step_of_bubblesAhead exmem memwb (by rwa [params, pc]), decoded, imem,
    (regTable_of_bubble memwb).trans reg, (dmemTable_of_bubble exmem).trans dmem,
    (nextState_exmem_instr notSquashed).trans idex, exmem, memwb⟩

/-- 40 R84: a word placed in ID/EX, alone in flight, stands for one instruction of sequential execution at its address, as
it did one stage earlier, just fetched into IF/ID. -/
theorem drain_placeAtExecute {s : State} {word : Word} (imemWf : s.imem.wf = true)
    (valid : addressValid s.params s.pc = true) :
    drain (placeAtExecute s word) =
      sequentialStep s.params (placeAtExecute s word).imem ⟨some s.pc, s.reg, s.dmem⟩ := by
  have ifid (b : Arch) : drainIfid (placeAtExecute s word) b = some { b with next := some (s.pc + 1) } :=
    (drainIfid_eq _ b).trans (completeThen_noopWord _ _ _ b)
  have fetched : (((placeAtFetch s word).setIfid ⟨word, s.pc + 1⟩).setPc (s.pc + 1)).ifid =
      ⟨(placeAtFetch s word).imem.read s.pc.toNat, s.pc + 1⟩ := by
    rw [read_placeAtFetch word imemWf]
    rfl
  calc drain (placeAtExecute s word)
    _ = drainIdex (placeAtExecute s word) ⟨none, s.reg, s.dmem⟩ := drain_of_bubblesAhead rfl rfl
    _ = drainIfid (((placeAtFetch s word).setIfid ⟨word, s.pc + 1⟩).setPc (s.pc + 1)) ⟨none, s.reg, s.dmem⟩ := by
      rw [drainIdex_eq, drainIfid_eq, funext ifid]
      rfl
    _ = _ := drainIfid_fetched (s := placeAtFetch s word) valid (by rfl) fetched rfl _

/-- Settles O52: nothing is forwarded over the values read, and with bubbles ahead the cycle runs the word's Execute. -/
theorem placedWordRunsNext : Obligations.PlacedWordRunsNext := by
  intro s w imemWf valid
  rw [withFetchWord_eq]
  generalize BitVec.ofNat 32 w = word
  have operand (r : Reg) (v : Word) : forward (placeAtExecute s word) r v = v := forward_of_bubbles rfl rfl rfl r v
  refine ⟨read_placeAtFetch word imemWf, fun i decoded => ?execute, operand _ _, operand _ _,
    drain_placeAtExecute imemWf valid, fun validNext => ?runs⟩
  case execute => exact stepRunsTheDecodedInstructions.1 .execute _ i decoded
  case runs =>
    exact ⟨_, step_of_bubblesAhead rfl rfl validNext, nextState_exmem_instr (squash_of_bubble rfl), rfl, rfl,
      operand _ _, regTable_of_bubble rfl, dmemTable_of_bubble rfl⟩

end Sys2Proof.Machine
end

/-! ## An ILLEGAL word, stage by stage (45 R152) -/

section
namespace Sys2Proof.Machine

/-- 30 R54, 45 R152: a stage whose word has no name runs the meaning of ILLEGAL words. -/
theorem runStage_of_illegal {k : Stage} {s : State} (noName : opname (stageWord k s) = .illegal) :
    runStage k s = runIllegal (s.setStage k) :=
  stepRunsTheDecodedInstructions.2.1 k s _ ((decode_eq_error_iff _).mpr noName)

theorem runIllegal_execute {s : State} (h : s.stage = .execute) :
    runIllegal s = .next (latchExecute (aluKept s) s) := by
  rw [runIllegal, h]

theorem runIllegal_memory {s : State} (h : s.stage = .memory) :
    runIllegal s = .next (latchMemory s.exmem.aluResult s) := by
  rw [runIllegal, h]

theorem runIllegal_writeback_noop {s : State} (h : s.stage = .writeback) (mode : s.params.illegalOpMode = .noop) :
    runIllegal s = .next (retire s) := by
  simp only [runIllegal, h, mode]

theorem runIllegal_writeback_fault {s : State} (h : s.stage = .writeback)
    (mode : s.params.illegalOpMode = .faultAtWriteback) :
    runIllegal s = .fault (.illegalOpcodeFault s.memwb.instr s.cycles) := by
  simp only [runIllegal, h, mode, raise]

/-- Settles O23: the word runs as ILLEGAL, whose stages keep the ALU result, pass it on, and retire or fault. -/
theorem illegalWordHasNoEffectOrFaults : Obligations.IllegalWordHasNoEffectOrFaults := by
  intro k s noName
  rw [runStage_of_illegal noName]
  refine ⟨?execute, ?memory, ?retires, ?faults⟩
  case execute =>
    rintro rfl
    exact ⟨_, runIllegal_execute rfl, rfl, rfl, rfl, rfl, rfl⟩
  case memory =>
    rintro rfl
    exact ⟨_, runIllegal_memory rfl, rfl, rfl, rfl, rfl⟩
  case retires =>
    rintro rfl mode
    exact ⟨_, runIllegal_writeback_noop rfl mode, rfl, rfl, rfl, rfl⟩
  case faults =>
    rintro rfl mode
    exact runIllegal_writeback_fault rfl mode

end Sys2Proof.Machine
end

/-! ## The stall test, and a stall and a squash that meet (40 R71, R80) -/

section
namespace Sys2Proof.Machine

/-- Settles O36: 40 R71 says the test itself. -/
theorem onlyLoadUseStalls : Obligations.OnlyLoadUseStalls := fun _ => stall_iff

/-- Settles O38: a taken branch squashes whether or not a stall is due, and the bubbles it leaves neither stall nor
squash. -/
theorem squashOverridesStall : Obligations.SquashOverridesStall := by
  intro s t running _ isBeq equal h
  obtain ⟨pc, ifid, idex, exmem, -⟩ := takenBranchSquashesThree s t running isBeq equal h
  exact ⟨pc, ifid, idex, exmem, stall_of_bubble idex, squash_of_bubble exmem⟩

end Sys2Proof.Machine
end

/-! ## A canonical memory is determined by its reads (log entry 3) -/

section
namespace Sys2Proof.Machine

theorem memory_read_head (c : Nat × Word) (rest : Memory) : Memory.read (c :: rest) c.1 = c.2 := by
  simp [memory_read_cell]

/-- What the rest of a canonical memory reads, in terms of the whole. -/
theorem memory_read_tail {lo : Nat} {c : Nat × Word} {rest : Memory} (wf : Memory.wfFrom lo (c :: rest) = true)
    (a : Nat) : Memory.read rest a = if a ≤ c.1 then unlistedWord else Memory.read (c :: rest) a := by
  obtain ⟨-, -, restWf⟩ := memory_wfFrom_cell.mp wf
  split
  · exact memory_read_below restWf (by omega)
  · rw [memory_read_cell, if_neg (by omega), if_neg (by omega)]

/-- A canonical memory lists no cell in vain: its first address does not read as unlisted. -/
theorem memory_read_head_ne {lo : Nat} {c : Nat × Word} {rest : Memory} (wf : Memory.wfFrom lo (c :: rest) = true) :
    Memory.read (c :: rest) c.1 ≠ unlistedWord := by
  rw [memory_read_head]
  exact (memory_wfFrom_cell.mp wf).2.1

theorem memory_read_below_head {a : Nat} {c : Nat × Word} {rest : Memory} (lt : a < c.1) :
    Memory.read (c :: rest) a = unlistedWord := by
  rw [memory_read_cell, if_pos lt]

theorem head_le_of_reads_agree {lo : Nat} {c d : Nat × Word} {rest rest' : Memory}
    (wf : Memory.wfFrom lo (c :: rest) = true)
    (agree : ∀ a, Memory.read (c :: rest) a = Memory.read (d :: rest') a) : d.1 ≤ c.1 :=
  Nat.le_of_not_lt fun below => memory_read_head_ne wf ((agree c.1).trans (memory_read_below_head below))

/-- Two canonical memories that read alike are equal: neither lists an address before the other's first one, and what
follows that one reads alike too. -/
theorem memory_ext {lo : Nat} {m n : Memory} (mWf : Memory.wfFrom lo m = true) (nWf : Memory.wfFrom lo n = true)
    (agree : ∀ a, m.read a = n.read a) : m = n := by
  induction m generalizing lo n with
  | nil =>
    cases n with
    | nil => rfl
    | cons d rest' => exact absurd (agree d.1).symm (memory_read_head_ne nWf)
  | cons c rest ih =>
    cases n with
    | nil => exact absurd (agree c.1) (memory_read_head_ne mWf)
    | cons d rest' =>
      have sameAddress : c.1 = d.1 :=
        Nat.le_antisymm (head_le_of_reads_agree nWf fun a => (agree a).symm) (head_le_of_reads_agree mWf agree)
      have sameWord : c.2 = d.2 := by
        rw [← memory_read_head c rest, agree, sameAddress, memory_read_head]
      obtain ⟨-, -, restWf⟩ := memory_wfFrom_cell.mp mWf
      obtain ⟨-, -, restWf'⟩ := memory_wfFrom_cell.mp nWf
      have sameRest : rest = rest' := ih restWf (sameAddress ▸ restWf') fun a => by
        rw [memory_read_tail mWf, memory_read_tail nWf, agree, sameAddress]
      rw [Prod.ext sameAddress sameWord, sameRest]

/-- Settles O12, by the extensionality of memories from any first address. -/
theorem canonicalMemoriesAreEqualWhenReadsAgree : Obligations.CanonicalMemoriesAreEqualWhenReadsAgree :=
  fun _ _ => memory_ext

end Sys2Proof.Machine
end

/-! ## The state after a load (10 R26, 70 R182) -/

section
namespace Sys2Proof.Machine

/-- 70 R182(e): from its first address on, the memory of an image reads the image, and 0 beyond it. -/
theorem imageMemory_read_add (base i : Nat) (image : List Word) :
    (imageMemory base image).read (base + i) = image.getD i 0 := by
  induction image generalizing base i with
  | nil => rfl
  | cons w rest ih =>
    rw [imageMemory, memory_read_cons w _ (imageMemory_wfFrom (base + 1) rest), if_neg (by omega)]
    cases i with
    | zero => simp
    | succ i =>
      have shift : base + (i + 1) = base + 1 + i := by omega
      rw [if_neg (by omega), shift, ih, List.getD_cons_succ]

/-- Instruction memory after a load. -/
theorem imageMemory_read (image : List Word) (a : Nat) : (imageMemory 0 image).read a = image.getD a 0 := by
  simpa using imageMemory_read_add 0 a image

/-- 70 R182(f), 92 D2: data memory after a load. -/
theorem initialDmem_read (mode : DmemInit) (image : List Word) (a : Nat) :
    (initialDmem mode image).read a = if mode = .image then image.getD a 0 else 0 := by
  cases mode with
  | image => exact imageMemory_read image a
  | zero => rfl

/-- 10 R25, 41 R110: a bubble in MEM/WB is no halt. -/
theorem runStatus_of_bubble {s : State} (bubble : s.memwb.instr = noopWord) : s.runStatus = .running := by
  simp [State.runStatus, bubble, opname_noopWord]

/-- Settles O8: a load sets the two memories and the parameters and keeps every other field of the reset state. -/
theorem loadedStateHoldsResetValues : Obligations.LoadedStateHoldsResetValues := by
  intro p image
  exact ⟨rfl, rfl, regFile_read_reset, rfl, rfl, rfl, rfl, rfl, imageMemory_read image,
    initialDmem_read p.dmemInit image, rfl, runStatus_of_bubble rfl⟩

end Sys2Proof.Machine
end

/-! ## Reading the lines of a machine-code file (70 R182, R183) -/

section
namespace Sys2Proof.Machine

/-- 70 R182(c): which word a value gives. -/
theorem wordOfValue_eq_some_iff {v : Int} {w : Word} :
    wordOfValue v = some w ↔ (-(2 ^ 31) ≤ v ∧ v ≤ 2 ^ 32 - 1) ∧ BitVec.ofInt 32 v = w := by
  rw [wordOfValue, Option.ite_none_right_eq_some, Option.some_inj]

/-- The line is an integer of the range of 70 R182(c), and `w` is the word it stores. -/
def LineStores (line : List Char) (w : Word) : Prop :=
  ∃ v : Int, lineValue line = some v ∧ -(2 ^ 31) ≤ v ∧ v ≤ 2 ^ 32 - 1 ∧ w = BitVec.ofInt 32 v

theorem lineStores_iff {line : List Char} {w : Word} :
    LineStores line w ↔ (lineValue line).bind wordOfValue = some w := by
  simp only [LineStores, Option.bind_eq_some_iff, wordOfValue_eq_some_iff, and_assoc, eq_comm (a := w)]

/-- 70 R182(b) to (d): one line more reads when it is in memory and stores a word, and the rest reads. -/
theorem readLines_cons_eq_ok_iff {memWords address : Nat} {line : List Char} {rest : List (List Char)}
    {image : List Word} :
    readLines memWords address (line :: rest) = .ok image ↔
      address < memWords ∧
        ∃ w ws, LineStores line w ∧ readLines memWords (address + 1) rest = .ok ws ∧ image = w :: ws := by
  simp only [lineStores_iff, readLines]
  split
  · next outside => simp [Nat.not_lt.mpr outside]
  · next inside =>
    cases (lineValue line).bind wordOfValue with
    | none => simp
    | some w =>
      cases readLines memWords (address + 1) rest with
      | error e => simp
      | ok ws => simp [Nat.lt_of_not_le inside, eq_comm]

/-- Lines that read fit in memory, and each stores the word at its place in the image. -/
theorem readLines_eq_ok {memWords address : Nat} {lines : List (List Char)} {image : List Word}
    (start : address ≤ memWords) (h : readLines memWords address lines = .ok image) :
    address + lines.length ≤ memWords ∧ List.Forall₂ LineStores lines image := by
  induction lines generalizing address image with
  | nil =>
    obtain rfl : [] = image := Except.ok.inj h
    exact ⟨start, .nil⟩
  | cons line rest ih =>
    obtain ⟨inMemory, w, ws, stores, restReads, rfl⟩ := readLines_cons_eq_ok_iff.mp h
    obtain ⟨fits, restStores⟩ := ih inMemory restReads
    exact ⟨by rw [List.length_cons]; omega, .cons stores restStores⟩

/-- The address that a refusal reports is at most the memory's size (log entry 8). -/
theorem readLines_error_address_le {memWords address a : Nat} {lines : List (List Char)} (start : address ≤ memWords)
    (h : readLines memWords address lines = .error (.parseError a)) : a ≤ memWords := by
  induction lines generalizing address with
  | nil => cases h
  | cons line rest ih =>
    rw [readLines] at h
    split at h
    · cases h; exact start
    · split at h
      · cases h; exact start
      · split at h
        · cases h
        · next restRefused => cases h; exact ih (by omega) restRefused

/-- Settles O9: lines that read fit in memory, so these are refused, at an address that is bounded. -/
theorem overlongFileIsRefused : Obligations.OverlongFileIsRefused := by
  intro p lines overlong
  rw [loadFile]
  cases h : readLines p.memWords 0 lines with
  | ok image =>
    obtain ⟨fits, -⟩ := readLines_eq_ok (Nat.zero_le _) h
    omega
  | error e =>
    obtain ⟨a⟩ := e
    exact ⟨a, readLines_error_address_le (Nat.zero_le _) h, rfl⟩

/-- 70 R182, R183: a file that loads gives the state of the image its lines read as. -/
theorem loadFile_eq_ok_iff {p : Params} {lines : List (List Char)} {s : State} :
    loadFile p lines = .ok s ↔ ∃ image, readLines p.memWords 0 lines = .ok image ∧ s = loadImage p image := by
  rw [loadFile]
  cases readLines p.memWords 0 lines <;> simp [eq_comm]

/-- Settles O10: the image that the lines store is what instruction memory reads. -/
theorem loadedLineIsValueModuloTwoToThe32 : Obligations.LoadedLineIsValueModuloTwoToThe32 := by
  intro p lines s loads
  obtain ⟨image, reads, rfl⟩ := loadFile_eq_ok_iff.mp loads
  obtain ⟨fits, stores⟩ := readLines_eq_ok (Nat.zero_le _) reads
  obtain ⟨sameLength, storesAt⟩ := List.forall₂_iff_get.mp stores
  refine ⟨by omega, sameLength.symm, fun n line isLine => ?_⟩
  obtain ⟨inLines, rfl⟩ := List.getElem?_eq_some_iff.mp isLine
  have inImage : n < image.length := by omega
  have word : (loadImage p image).imem.read n = image[n] :=
    (imageMemory_read image n).trans (List.getD_eq_getElem image 0 inImage)
  rw [word]
  exact storesAt n inLines inImage

/-- Settles O11, by evaluation of the line reader. -/
theorem sampleLinesLoad : Obligations.SampleLinesLoad := by
  unfold Obligations.SampleLinesLoad
  decide

end Sys2Proof.Machine
end
